-- ==== Sys2Proof/Word.lean ====
section
/-! DEFINITION. The plain data of WPTF: bytes, words, caller ids, the alignment policy and the request record. -/

namespace Sys2Proof

/-- A byte is 8 bits (R12). -/
abbrev Byte := BitVec 8

/-- A word of width `w` bytes is an unsigned integer in `[0, 2^(8*w))` (R12). The width is an operand of a PACK
request, so the type does not carry it. DESIGN CHOICE (log 10): safe; the bound is a fact proved of `pack` (R111). -/
abbrev Word := Nat

/-- Caller ids are `0 .. N_CALLERS-1` (R20, R196). -/
abbrev CallerId := Nat

/-- AlignmentPolicy: where the zero padding goes (R17, R83). -/
inductive AlignPolicy where
  /-- pad bytes at the front of the first word (R112) -/
  | rightAlign
  /-- pad bytes at the end of the last word (R113) -/
  | leftAlign
  deriving DecidableEq, Repr, Inhabited

/-- A request as the request port takes it (R80): `DESC` and `LEN` are 32-bit values, not bytes, so no byte order
applies to them; `DATA` is the payload, `DATA[0]` first. -/
structure Request where
  desc : BitVec 32
  len  : BitVec 32
  data : List Byte
  deriving DecidableEq, Repr, Inhabited

end Sys2Proof
end

