-- ==== Sys2Proof/Config.lean ====
section
/-! DEFINITION. What an instance fixes (R9), what the environment may do at a step (R20, R229), and the free values. -/

namespace Sys2Proof

/-- TRANSPORT_DIR: which end of the padded buffer the transport keeps when it truncates (R9, R166). -/
inductive TransportDir where
  /-- clocks from the front forward -/
  | frontForward
  /-- clocks out from the end of the buffer backward -/
  | endBackward
  deriving DecidableEq, Repr, Inhabited

/-- The values an error type has (R9: "any type"): as many as `n`, none for `n = 0`, or as many as the natural numbers. -/
inductive ErrType where
  | finite (n : Nat)
  | countable
  deriving DecidableEq, Repr, Inhabited

/-- The parameters of an instance (R9). `PNat` makes `W = 0` and `N_CALLERS = 0` impossible to write: a configuration
with `W = 0` is not a WPTF instance (R11). -/
structure Params where
  /-- `W`, the Framer's word width in bytes, at least 1 (R10) -/
  wordBytes : PNat
  /-- `BUF_BYTES`, the capacity of the word buffer in bytes; `none` is unbounded -/
  bufBytes  : Option Nat
  /-- `N_CALLERS`, at least 1 -/
  nCallers  : PNat
  /-- `TRANSPORT_DIR`; the block never reads it -/
  dir       : TransportDir
  /-- `TErr`, the type of the transport's error values. DESIGN CHOICE (log 6): safe; up to their names the values of any
  countable type are these tokens, and no step inspects one -/
  errType   : ErrType
  deriving DecidableEq, Repr, Inhabited

/-- An opaque error value (R30): a token. Whether it is a value of the instance's `TErr` is `isErrorOf` (log 6). -/
structure TErr where
  token : Nat
  deriving DecidableEq, Repr, Inhabited

/-- The level of the control line (R23): `COMMAND` is encoded 0, `DATA` is encoded 1. -/
inductive Level where
  | command
  | data
  deriving DecidableEq, Repr, Inhabited

/-- What the transport answers: `OK` or `ERR(e)` (R30). -/
inductive TResult where
  | ok
  | err (e : TErr)
  deriving DecidableEq, Repr, Inhabited

/-- One offer of the environment: which agent takes the next step, with the step's free inputs (`draw`, R14).
`serve c` is the one step that caller `c`'s request enables in the Framer or the Packer; which caller is served is the
schedule and the arbitration of R20 and R66. DESIGN CHOICE (log 1): safe; every order of steps is some list of moves. -/
inductive Move where
  /-- Framer or Packer: the step caller `c`'s request enables -/
  | serve  (c : CallerId)
  /-- caller `c`'s issue step (R27) -/
  | issue  (c : CallerId) (r : Request)
  /-- caller `c` takes its response out (R27) -/
  | take   (c : CallerId)
  /-- the transport's ANSWER step with its draw `res` (R162); `k` is the drawn length of the prefix the device received
  if `res` is an error (R169) -/
  | answer (res : TResult) (k : Nat)
  /-- the reset step with its draw `level` (R210); `k` is the drawn length of the prefix the device received of an
  abandoned transaction (R212) -/
  | reset  (level : Level) (k : Nat)
  deriving DecidableEq, Repr, Inhabited

/-- The move the environment makes where the plan of the state names none: a FREE VALUE for each value of the counter
`State.draws` (R20, R66). Nothing constrains it. DESIGN CHOICE (log 2): safe; a claim holds for every schedule. -/
opaque Config.freeMove : Nat → Move

/-- The level of the control line that `State.reset` holds: a FREE VALUE (R23, I1). DESIGN CHOICE (log 3):
unsafe only where two uses of `State.reset` are compared, since both hold the same unknown level. -/
opaque Config.resetLevel : Level

/-- The instance that `State.reset` is of: the reference width 4 (D2), the buffer unbounded as in the conventions of
95_test_vectors.md, two callers (the most any vector of the spec has), front-forward, countably many error values.
DESIGN CHOICE (log 4): unsafe, since R9 leaves each of them open; no statement rests on these values. -/
def Config.params : Params :=
  { wordBytes := 4, bufBytes := none, nCallers := 2, dir := .frontForward, errType := .countable }

end Sys2Proof
end

