-- ==== Sys2Proof/Syntax.lean ====
section
/-! DEFINITION. The three operations of opcode_table.json as syntax. -/

namespace Sys2Proof

/-- A decoded request with its operands (R82, R90): every operand comes straight from a field or from `DATA` (R96). -/
inductive Instr where
  /-- `SEND(cmd)`, "send(command)" (R141) -/
  | send  (cmd : Byte)
  /-- `SENDP(cmd, pol)` with `bytes`, "send_with_payload(command, payload, policy)" (R145) -/
  | sendp (cmd : Byte) (pol : AlignPolicy) (bytes : List Byte)
  /-- `PACK(pol, w)` with `bytes`, "pack(bytes, policy, word_width_bytes)"; `width` is the field `WB` (R122) -/
  | pack  (pol : AlignPolicy) (width : Byte) (bytes : List Byte)
  deriving DecidableEq, Repr, Inhabited

end Sys2Proof
end

