-- ==== Sys2Proof/WellFormed.lean ====
section
/-! DEFINITION. Which instructions a request can carry, and which records are requests. -/

namespace Sys2Proof

/-- A payload's length fits the 32-bit field `LEN` (R80, R88). -/
def lenFits (bytes : List Byte) : Bool := decide (bytes.length < 2 ^ 32)

/-- An instruction some request carries: `CMD`, `POL` and `WB` take every value (R85, R83, R86), the payload's length
is `0 .. 2^32-1`. -/
def Instr.wellFormed : Instr → Bool
  | .send _ => true
  | .sendp _ _ bytes => lenFits bytes
  | .pack _ _ bytes => lenFits bytes

/-- A record is a request when `DATA` holds `LEN` bytes (R80). -/
def Request.wellFormed (r : Request) : Bool := decide (r.data.length = r.len.toNat)

end Sys2Proof
end

