-- ==== Sys2Proof/Decode.lean ====
section
/-! DEFINITION. The request decoder (R81-R92), the encoder, the rows of opcode_table.json, and the reader of a table word. -/

namespace Sys2Proof

/-! ### Fields of DESC (R81) -/

/-- `OP = DESC[2:0]` (R82) -/
def fieldOp (desc : BitVec 32) : BitVec 3 := desc.extractLsb' 0 3
/-- `POL = DESC[3]` (R83) -/
def fieldPol (desc : BitVec 32) : BitVec 1 := desc.extractLsb' 3 1
/-- `ORD = DESC[4]` (R84) -/
def fieldOrd (desc : BitVec 32) : BitVec 1 := desc.extractLsb' 4 1
/-- `RSV0 = DESC[7:5]` (R87) -/
def fieldRsv0 (desc : BitVec 32) : BitVec 3 := desc.extractLsb' 5 3
/-- `CMD = DESC[15:8]` (R85) -/
def fieldCmd (desc : BitVec 32) : Byte := desc.extractLsb' 8 8
/-- `WB = DESC[23:16]` (R86) -/
def fieldWb (desc : BitVec 32) : Byte := desc.extractLsb' 16 8
/-- `RSV1 = DESC[31:24]` (R87) -/
def fieldRsv1 (desc : BitVec 32) : BitVec 8 := desc.extractLsb' 24 8

/-- `POL`: 0 is RightAlign, 1 is LeftAlign (R83). -/
def policyOf (pol : BitVec 1) : AlignPolicy := if pol = 0#1 then .rightAlign else .leftAlign

/-- The bit of a policy (R83). -/
def policyBit : AlignPolicy → BitVec 32
  | .rightAlign => 0#32
  | .leftAlign => 1#32

/-! ### decode (R90) -/

/-- Why a request is illegal, one name for each clause of R91. -/
inductive Illegal where
  /-- `RSV0` or `RSV1` is not 0 (R87) -/
  | reservedField
  /-- `ORD = 1` (R84) -/
  | byteOrder
  /-- SEND with `POL`, `WB` or `LEN` not 0 (R89) -/
  | sendField
  /-- SENDP with `WB` not 0 (R89) -/
  | sendpField
  /-- PACK with `CMD` not 0 (R89) -/
  | packField
  /-- `OP` is `011` to `111` (R92) -/
  | reservedOp
  deriving DecidableEq, Repr

/-- What `decode` answers (R90); `WB` is kept as its 8 bits. -/
inductive Decoded where
  | send  (cmd : Byte)
  | sendp (cmd : Byte) (pol : AlignPolicy)
  | pack  (pol : AlignPolicy) (width : Byte)
  | illegal (why : Illegal)
  deriving DecidableEq, Repr

/-- The decode function, line by line (R90). It reads nothing but `DESC` and `LEN`. -/
def decode (desc len : BitVec 32) : Decoded :=
  if fieldRsv0 desc ≠ 0#3 ∨ fieldRsv1 desc ≠ 0#8 then .illegal .reservedField
  else if fieldOrd desc ≠ 0#1 then .illegal .byteOrder
  else if fieldOp desc = 0b000#3 then
    if fieldPol desc ≠ 0#1 ∨ fieldWb desc ≠ 0#8 ∨ len ≠ 0#32 then .illegal .sendField
    else .send (fieldCmd desc)
  else if fieldOp desc = 0b001#3 then
    if fieldWb desc ≠ 0#8 then .illegal .sendpField
    else .sendp (fieldCmd desc) (policyOf (fieldPol desc))
  else if fieldOp desc = 0b010#3 then
    if fieldCmd desc ≠ 0#8 then .illegal .packField
    else .pack (policyOf (fieldPol desc)) (fieldWb desc)
  else .illegal .reservedOp

/-- The payload `DATA[0 .. LEN)` (R88). `none` is a read outside the payload: the record holds fewer than `LEN` bytes
(R51). DEDUCED (log 11): safe; it stops where no request of R80 is. -/
def readPayload (r : Request) : Option (List Byte) :=
  if r.len.toNat ≤ r.data.length then some (r.data.take r.len.toNat) else none

/-- A request decoded with its payload. -/
inductive Fetched where
  /-- an instruction of the table -/
  | instr (i : Instr)
  /-- an illegal request (R91) -/
  | illegal (why : Illegal)
  /-- the payload would be read past its end (R51) -/
  | shortPayload
  deriving DecidableEq, Repr

/-- Attach the payload to SENDP and PACK (R90). The verdict of `decode` comes first, whatever the payload. -/
def fetchRequest (r : Request) : Fetched :=
  match decode r.desc r.len with
  | .illegal why => .illegal why
  | .send cmd => .instr (.send cmd)
  | .sendp cmd pol =>
    match readPayload r with
    | some bytes => .instr (.sendp cmd pol bytes)
    | none => .shortPayload
  | .pack pol width =>
    match readPayload r with
    | some bytes => .instr (.pack pol width bytes)
    | none => .shortPayload

/-! ### encode (R98) -/

/-- `DESC` of an instruction, as the table of text forms computes it (R98). -/
def encodeDesc : Instr → BitVec 32
  | .send cmd => cmd.setWidth 32 <<< 8
  | .sendp cmd pol _ => (cmd.setWidth 32 <<< 8) + (policyBit pol <<< 3) + 0b001#32
  | .pack pol width _ => (width.setWidth 32 <<< 16) + (policyBit pol <<< 3) + 0b010#32

/-- The payload of an instruction; SEND has none (R88). -/
def encodeData : Instr → List Byte
  | .send _ => []
  | .sendp _ _ bytes => bytes
  | .pack _ _ bytes => bytes

/-- The request that carries an instruction (R80, R98): `LEN` is the payload's length. -/
def encode (i : Instr) : Request :=
  { desc := encodeDesc i, len := BitVec.ofNat 32 (encodeData i).length, data := encodeData i }

/-! ### The rows of opcode_table.json (R89) -/

/-- A row: `DESC & mask = match` selects it. `lenZero` says that the row also requires `LEN = 0`. -/
structure TableRow where
  mnemonic : String
  pattern  : BitVec 32
  mask     : BitVec 32
  lenZero  : Bool
  deriving DecidableEq, Repr

/-- SEND's row (R89) -/
def rowSend : TableRow := { mnemonic := "SEND", pattern := 0x00000000#32, mask := 0xFFFF00FF#32, lenZero := true }
/-- SENDP's row (R89) -/
def rowSendp : TableRow := { mnemonic := "SENDP", pattern := 0x00000001#32, mask := 0xFFFF00F7#32, lenZero := false }
/-- PACK's row (R89) -/
def rowPack : TableRow := { mnemonic := "PACK", pattern := 0x00000002#32, mask := 0xFF00FFF7#32, lenZero := false }

/-- The opcode table. -/
def opcodeTable : List TableRow := [rowSend, rowSendp, rowPack]

/-- Whether a request's `DESC` and `LEN` select a row (R89). -/
def TableRow.selects (row : TableRow) (desc len : BitVec 32) : Bool :=
  decide (desc &&& row.mask = row.pattern) && (!row.lenZero || decide (len = 0#32))

/-- The row of an instruction. -/
def rowOf : Instr → TableRow
  | .send _ => rowSend
  | .sendp _ _ _ => rowSendp
  | .pack _ _ _ => rowPack

/-! ### A request given as one number -/

/-- The request whose bits are `w` as the opcode table numbers them: `DESC` is bits 31..0, `LEN` bits 63..32, byte `j`
of `DATA` bits `64+8j+7 .. 64+8j`; every bit from `nbits` up is 0. R80 gives `DESC` and `LEN` as 32-bit values, so no
byte order enters. The places of `LEN` and `DATA` are a DESIGN CHOICE (log 8): safe; no step reads this numbering. -/
def tableRequest (nbits w : Nat) : Request :=
  let v := w % 2 ^ nbits
  let len := BitVec.ofNat 32 (v / 2 ^ 32)
  { desc := BitVec.ofNat 32 v
    len := len
    data := (List.range len.toNat).map fun j => BitVec.ofNat 8 (v / 2 ^ (64 + 8 * j)) }

/-- The instruction the decoder reads from the request whose bits are `w` (`none` where it refuses). -/
def decodeTableWord (nbits w : Nat) : Option Instr :=
  match fetchRequest (tableRequest nbits w) with
  | .instr i => some i
  | .illegal _ => none
  | .shortPayload => none

end Sys2Proof
end

