-- ==== Sys2Proof/Machine/State.lean ====
section
/-! DEFINITION. The state of WPTF as plain data (10_state.md), the reasons a step can stop, and the state after reset. -/

namespace Sys2Proof.Machine

/-- `SEQ`, the Framer's sequencer phase (R22). -/
inductive Phase where
  | idle
  | line
  | build
  | submit
  | wait
  | done
  deriving DecidableEq, Repr

/-- `LOCK`, the Framer's mutual-exclusion lock (R24). -/
inductive Lock where
  | free
  | held (c : CallerId)
  deriving DecidableEq, Repr

/-- A framed request with its caller: `SEND(c, cmd)` or `SENDP(c, cmd, pol, bytes)` (R27, R35). -/
inductive Framed where
  | send  (c : CallerId) (cmd : Byte)
  | sendp (c : CallerId) (cmd : Byte) (pol : AlignPolicy) (bytes : List Byte)
  deriving DecidableEq, Repr

/-- A transaction `{command, payload, payload_bit_length}` (R26); the bit length is an unbounded natural number. -/
structure Transaction where
  command : Byte
  payload : Option (List Word)
  payloadBitLength : Nat
  deriving DecidableEq, Repr

/-- `REQ[c]`, a caller's request slot (R27). -/
inductive ReqSlot where
  | empty
  | pending (r : Request)
  | waiting (d : Framed)
  | active
  deriving DecidableEq, Repr

/-- The `STATUS` codes of a response (R94). -/
inductive Status where
  | ok
  | invalidWidth
  | transportError
  | illegalRequest
  deriving DecidableEq, Repr

/-- A response (R93), one alternative for each set of parts that may be present. -/
inductive Response where
  /-- `{STATUS: OK}` of SEND or SENDP, which return no data -/
  | ok
  /-- `{STATUS: OK, COUNT, WORDS}` of PACK -/
  | packed (count : BitVec 32) (words : List Word)
  /-- `{STATUS: INVALID_WIDTH}` -/
  | invalidWidth
  /-- `{STATUS: TRANSPORT_ERROR, ERR: e}` -/
  | transportError (e : TErr)
  /-- `{STATUS: ILLEGAL_REQUEST}` -/
  | illegalRequest
  deriving DecidableEq, Repr

/-- An event of the history (R29). -/
inductive Event where
  | issue   (c : CallerId) (r : Request)
  | setLine (c : CallerId) (level : Level)
  | submit  (c : CallerId) (tx : Transaction)
  | result  (c : CallerId) (res : TResult)
  | respond (c : CallerId) (rsp : Response)
  | fatal   (c : CallerId)
  | reset
  deriving DecidableEq, Repr

/-- The state of the system: the block (R22-R29, R34, R35), the parameters no step writes (R9), what the callers took
out (R228), what the display device received (R166, R169, R212), and the model's own three fields. -/
structure State where
  /-- the instance's parameters (R9). DESIGN CHOICE (log 4): they stand in State, and no step writes them -/
  params : Params
  /-- `SEQ` (R22) -/
  seq    : Phase
  /-- `CL` (R23) -/
  cl     : Level
  /-- `LOCK` (R24) -/
  lock   : Lock
  /-- `WBUF` (R25) -/
  wbuf   : List Word
  /-- `TX` (R26) -/
  tx     : Option Transaction
  /-- `REQ[c]` for `c = 0 .. N_CALLERS-1` (R27) -/
  req    : List ReqSlot
  /-- `RSP[c]` for `c = 0 .. N_CALLERS-1`; `none` is EMPTY (R27) -/
  rsp    : List (Option Response)
  /-- `FATAL` (R28) -/
  fatal  : Bool
  /-- `HIST`, oldest event first (R29) -/
  hist   : List Event
  /-- `RES` (R34) -/
  res    : Option TResult
  /-- `CUR` (R35) -/
  cur    : Option Framed
  /-- the responses the callers took out, with their callers, oldest first: with `HIST` the observation of a run (R228).
  DEDUCED (log 16): reset leaves them -/
  taken  : List (CallerId × Response)
  /-- what the device received of the transaction that is answered and not yet completed (R166, R169).
  DESIGN CHOICE (log 9): safe -/
  live   : Option (List Byte)
  /-- what the device received of each ended transaction, oldest first (R166, R169, R212). DESIGN CHOICE
  (log 9): safe -/
  device : List (List Byte)
  /-- the environment's next moves, oldest first: the MODEL's own field. DESIGN CHOICE (log 1): safe -/
  plan   : List Move
  /-- the counter the free moves are taken at: the MODEL's own field. DESIGN CHOICE (log 2): safe -/
  draws  : Nat
  /-- the caller whose request the present block step serves: the MODEL's own field. DESIGN CHOICE (log 5):
  safe -/
  turn   : CallerId
  deriving DecidableEq, Repr

/-- Why the machine can stop with a fault. -/
inductive Fault where
  /-- A read outside the payload (R51, I22): "it must fault, not return a value". Raised by `serve` on a pending request
  record that holds fewer than `LEN` bytes. No step can place such a record, so no run reaches it. Safe. -/
  | payloadOutOfRange
  deriving DecidableEq, Repr

/-- Why an instruction can be refused. -/
inductive Refusal where
  /-- An instruction that has no meaning yet; no arm of `exec` answers it. Safe. -/
  | notModelled (mnemonic : String)
  deriving DecidableEq, Repr

/-- The state after reset of an instance `p` whose draw of `CL` is `level` (R211). The history holds the one event
`Reset`: DEDUCED (log 14), safe. The plan, the device's record and the
responses taken are empty (log 1, 9, 16). -/
def State.resetWith (p : Params) (level : Level) : State :=
  { params := p
    seq := .idle
    cl := level
    lock := .free
    wbuf := []
    tx := none
    req := List.replicate p.nCallers .empty
    rsp := List.replicate p.nCallers none
    fatal := false
    hist := [.reset]
    res := none
    cur := none
    taken := []
    live := none
    device := []
    plan := []
    draws := 0
    turn := 0 }

/-- The machine right after reset (R211), `CL` at its free value (R23). -/
def State.reset : State := State.resetWith Config.params Config.resetLevel

end Sys2Proof.Machine
end

