-- ==== Sys2Proof/Machine/Flags.lean ====
section
/-! DEFINITION. The only flag-like output: the `STATUS` of a response (R36, R94). WPTF has no condition codes. -/

namespace Sys2Proof.Machine

/-- The status of a response (R93). -/
def statusOf : Response → Status
  | .ok => .ok
  | .packed _ _ => .ok
  | .invalidWidth => .invalidWidth
  | .transportError _ => .transportError
  | .illegalRequest => .illegalRequest

/-- The 2-bit code of a status (R94). -/
def statusCode : Status → BitVec 2
  | .ok => 0b00#2
  | .invalidWidth => 0b01#2
  | .transportError => 0b10#2
  | .illegalRequest => 0b11#2

/-- The response of a framed call: the transport's result unchanged (R144, R154, R163). -/
def framedResponse : TResult → Response
  | .ok => .ok
  | .err e => .transportError e

/-- The bit of a control-line level: 0 is COMMAND, 1 is DATA (R23). -/
def levelBit : Level → BitVec 1
  | .command => 0#1
  | .data => 1#1

end Sys2Proof.Machine
end

