-- ==== Sys2Proof/Machine/Operands.lean ====
section
/-! DEFINITION. Operand forms and the Word Packer's function: ceil, padding, lanes, `pack`, image, `unpack`, values. -/

namespace Sys2Proof.Machine

/-- `WB` zero-extended to an integer: not scaled, not offset (R86, R96). -/
def widthOperand (width : Byte) : Nat := width.toNat

/-- `ceil(a/d)`, the least `q` with `q*d >= a`, for `d >= 1` (R13). -/
def ceilDiv (a d : Nat) : Nat := (a + (d - 1)) / d

/-- The word count `c = ceil(n/w)` (R114). -/
def wordCount (n w : Nat) : Nat := ceilDiv n w

/-- The pad count `p = c*w - n` (R115). -/
def padCount (n w : Nat) : Nat := wordCount n w * w - n

/-- `k` zero bytes (R13). -/
def zeros (k : Nat) : List Byte := List.replicate k 0#8

/-- The padded byte sequence (R111): the pad in front under RightAlign (R112), behind under LeftAlign (R113). -/
def paddedBytes (bytes : List Byte) (pol : AlignPolicy) (w : Nat) : List Byte :=
  match pol with
  | .rightAlign => zeros (padCount bytes.length w) ++ bytes
  | .leftAlign => bytes ++ zeros (padCount bytes.length w)

/-- The number whose bytes are the list, most significant first: `BE(s)` (R127), and so the word whose lanes they are
(R12, R116). -/
def beValue : List Byte → Nat
  | [] => 0
  | b :: rest => b.toNat * 2 ^ (8 * rest.length) + beValue rest

/-- `c` words of `w` bytes, from consecutive groups of the byte sequence (R57, R111). -/
def groupWords (w : Nat) : Nat → List Byte → List Word
  | 0, _ => []
  | c + 1, bytes => beValue (bytes.take w) :: groupWords w c (bytes.drop w)

/-- The words of `pack` for `w >= 1` (R111). -/
def packWords (bytes : List Byte) (pol : AlignPolicy) (w : Nat) : List Word :=
  groupWords w (wordCount bytes.length w) (paddedBytes bytes pol w)

/-- The result of `pack` (R110). -/
inductive PackResult where
  | words (ws : List Word)
  | invalidWidth
  deriving DecidableEq, Repr

/-- The function `pack` (R111): the width check comes before anything else (R118). -/
def pack (bytes : List Byte) (pol : AlignPolicy) (w : Nat) : PackResult :=
  if w = 0 then .invalidWidth else .words (packWords bytes pol w)

/-- Byte lane `k` of a word of width `w`: bits `[(w-1-k)*8+7 : (w-1-k)*8]`, lane 0 the most significant (R12). -/
def lane (w k : Nat) (v : Word) : Byte := BitVec.ofNat 8 (v / 2 ^ ((w - 1 - k) * 8))

/-- The bytes of a word of width `w`, lane 0 first (R56). -/
def wordBytes (w : Nat) (v : Word) : List Byte := (List.range w).map fun k => lane w k v

/-- The buffer byte image of a word sequence (R56). -/
def image (w : Nat) (ws : List Word) : List Byte := ws.flatMap (wordBytes w)

/-- The inverse of `pack`, given the true length (R128). -/
def unpack (ws : List Word) (n : Nat) (pol : AlignPolicy) (w : Nat) : List Byte :=
  let img := image w ws
  match pol with
  | .rightAlign => (img.drop (img.length - n)).take n
  | .leftAlign => img.take n

/-- `VAL(ws)`: the words read as one big-endian number (R127). -/
def wordsValue (w : Nat) : List Word → Nat
  | [] => 0
  | v :: rest => v * 2 ^ (8 * w * rest.length) + wordsValue w rest

/-- Whether a word buffer of `ceil(n/w)*w` bytes fits `BUF_BYTES` (R119, R184). -/
def bufferFits (p : Params) (n w : Nat) : Bool :=
  match p.bufBytes with
  | none => true
  | some cap => decide (wordCount n w * w ≤ cap)

end Sys2Proof.Machine
end

