-- ==== Sys2Proof/Machine/Transport.lean ====
section
/-! DEFINITION. What the transport makes of a transaction (R166-R169): the window it keeps, the bytes the device receives. -/

namespace Sys2Proof.Machine

/-- The bytes the transport keeps of a payload buffer when it truncates to the declared bit length `8*n` (R166):
`img[0 .. n)` from the front, `img[P-n .. P)` from the end, in ascending buffer order. -/
def window (dir : TransportDir) (w : Nat) (ws : List Word) (n : Nat) : List Byte :=
  let img := image w ws
  match dir with
  | .frontForward => img.take n
  | .endBackward => img.drop (img.length - n)

/-- The bytes the transport sends for a transaction: the command byte, then the window of its payload (R166). -/
def transactionStream (p : Params) (tx : Transaction) : List Byte :=
  match tx.payload with
  | none => [tx.command]
  | some ws => tx.command :: window p.dir p.wordBytes ws (tx.payloadBitLength / 8)

/-- What the device received of an answered transaction: all of the stream after `OK` (R166); after `ERR(e)` a prefix of
it, whose length `k` is a draw (R169). -/
def receivedAfter (p : Params) (tx : Transaction) (res : TResult) (k : Nat) : List Byte :=
  match res with
  | .ok => transactionStream p tx
  | .err _ => (transactionStream p tx).take k

/-- Whether a token is a value of the error type (R9): below `n` in a type of `n` values, any in a countable one. -/
def isErrorOf (ty : ErrType) (e : TErr) : Bool :=
  match ty with
  | .finite n => decide (e.token < n)
  | .countable => true

/-- Whether the transport can answer `res`: `OK`, or `ERR(e)` with `e : TErr` (R30). -/
def resultAllowed (p : Params) (res : TResult) : Bool :=
  match res with
  | .ok => true
  | .err e => isErrorOf p.errType e

/-- The correct pairings of policy and transport direction (R167). -/
def correctPairing (pol : AlignPolicy) (dir : TransportDir) : Bool :=
  match pol, dir with
  | .rightAlign, .endBackward => true
  | .leftAlign, .frontForward => true
  | .rightAlign, .frontForward => false
  | .leftAlign, .endBackward => false

end Sys2Proof.Machine
end

