-- ==== Sys2Proof/Machine/Ops.lean ====
section
/-! DEFINITION. The named operations on the state: slots, events, responses, the errors, the sequencer steps of
41_framer.md, and the steps of the callers, the transport and reset. Each returns the state after it. A step that is
not enabled leaves the state as it is: DESIGN CHOICE (log 7), unsafe as R230 says of the moves it leaves out. -/

namespace Sys2Proof.Machine

/-! ### Slots, history, responses (R14, R27) -/

/-- `REQ[c]`; EMPTY for an id that is no caller's. -/
def reqAt (c : CallerId) (s : State) : ReqSlot := s.req.getD c .empty

/-- `RSP[c]`; EMPTY for an id that is no caller's. -/
def rspAt (c : CallerId) (s : State) : Option Response := s.rsp.getD c none

/-- `REQ[c] <- x` -/
def setReq (c : CallerId) (x : ReqSlot) (s : State) : State := { s with req := s.req.set c x }

/-- `RSP[c] <- x` -/
def setRsp (c : CallerId) (x : Option Response) (s : State) : State := { s with rsp := s.rsp.set c x }

/-- `emit e` (R14, R29): events are appended, oldest first. -/
def emit (e : Event) (s : State) : State := { s with hist := s.hist ++ [e] }

/-- `respond(c, r); emit Respond(c, r)`: the response is delivered and the request slot becomes empty, in one step
(R14, R27). Every error that is reported is reported by it (R180-R183). -/
def respond (c : CallerId) (r : Response) (s : State) : State :=
  emit (.respond c r) (setRsp c (some r) (setReq c .empty s))

/-- Resource exhaustion (R184): `FATAL <- 1; emit Fatal(c)`, and no response. -/
def exhaust (c : CallerId) (s : State) : State := emit (.fatal c) { s with fatal := true }

/-- The Reject step's effect (R183). -/
def reject (c : CallerId) (s : State) : State := respond c .illegalRequest s

/-! ### Framed requests -/

/-- The caller of a framed request. -/
def framedCaller : Framed → CallerId
  | .send c _ => c
  | .sendp c _ _ _ => c

/-- The instruction of a framed request. -/
def framedInstr : Framed → Instr
  | .send _ cmd => .send cmd
  | .sendp _ cmd pol bytes => .sendp cmd pol bytes

/-- Whether a framed request passes the buffer check of ACCEPT (R157); SEND packs nothing. -/
def framedFits (p : Params) : Framed → Bool
  | .send _ _ => true
  | .sendp _ _ _ bytes => bufferFits p bytes.length p.wordBytes

/-- The transaction that BUILD makes (R160): the declared length is the unpadded `8*n` (R148), and an empty payload is
absent (R143, R150). The command byte is not interpreted (R155). -/
def buildTransaction (p : Params) : Framed → Transaction
  | .send _ cmd => { command := cmd, payload := none, payloadBitLength := 0 }
  | .sendp _ cmd pol bytes =>
    if bytes.length = 0 then { command := cmd, payload := none, payloadBitLength := 0 }
    else { command := cmd, payload := some (packWords bytes pol p.wordBytes), payloadBitLength := 8 * bytes.length }

/-- The words that BUILD writes into `WBUF`, word 0 to word `len(ws)-1` once each (R52, R160); none for SEND and for an
empty payload. -/
def buildWords (p : Params) : Framed → List Word
  | .send _ _ => []
  | .sendp _ _ pol bytes => if bytes.length = 0 then [] else packWords bytes pol p.wordBytes

/-- `WBUF` after `MemWrite(WBUF, j, W, ws[j])` for every `j` (R52, R160): the words written; with nothing to write the
buffer stays. DEDUCED (log 12): safe; the step is atomic (R15), and the buffer is empty before it (R39). -/
def writeBuffer (ws buf : List Word) : List Word :=
  match ws with
  | [] => buf
  | v :: rest => v :: rest

/-! ### Sequencer steps (R157-R163) -/

/-- ACCEPT (R157): the buffer check, then `REQ[c] <- WAITING(d)`. -/
def acceptStep (d : Framed) (s : State) : State :=
  if framedFits s.params d then setReq (framedCaller d) (.waiting d) s else exhaust (framedCaller d) s

/-- GRANT (R158), enabled when `LOCK = FREE` and `SEQ = IDLE`. -/
def grantStep (d : Framed) (s : State) : State :=
  if s.lock = .free ∧ s.seq = .idle then
    { setReq (framedCaller d) .active s with lock := .held (framedCaller d), cur := some d, seq := .line }
  else s

/-- LINE (R159): `set_line(COMMAND)`, which cannot fail (R32). -/
def lineStep (d : Framed) (s : State) : State :=
  emit (.setLine (framedCaller d) .command) { s with cl := .command, seq := .build }

/-- BUILD (R160). Only a SENDP with a payload writes `WBUF`. -/
def buildStep (d : Framed) (s : State) : State :=
  { s with
    wbuf := writeBuffer (buildWords s.params d) s.wbuf
    tx := some (buildTransaction s.params d)
    seq := .submit }

/-- SUBMIT (R161). -/
def submitStep (d : Framed) (s : State) : State :=
  match s.tx with
  | some tx => emit (.submit (framedCaller d) tx) { s with seq := .wait }
  | none => s

/-- COMPLETE (R163): everything is released and the transport's result is returned unchanged. The bytes the device
received of this transaction join its record (R166, R169). -/
def completeStep (d : Framed) (s : State) : State :=
  match s.res with
  | some res =>
    respond (framedCaller d) (framedResponse res)
      { s with
        wbuf := [], tx := none, res := none, cur := none, lock := .free, seq := .idle
        device := s.device ++ s.live.toList, live := none }
  | none => s

/-- The step of the call in `CUR` in the present phase (R156); in WAIT the next step is the transport's. -/
def activeStep (d : Framed) (s : State) : State :=
  match s.seq with
  | .idle => s
  | .line => lineStep d s
  | .build => buildStep d s
  | .submit => submitStep d s
  | .wait => s
  | .done => completeStep d s

/-- The Framer's step for the framed request `d` of the caller served (R156), by how far `REQ[c]` has moved through
`PENDING -> WAITING -> ACTIVE`; enabled only while `FATAL = 0`. It takes the operands of `d`, which `serve` reads from the
slot: DESIGN CHOICE (log 15), safe for every step. -/
def framerStep (d : Framed) (s : State) : State :=
  if s.fatal then s
  else
    match reqAt (framedCaller d) s with
    | .empty => s
    | .pending _ => acceptStep d s
    | .waiting _ => grantStep d s
    | .active => if s.cur = some d then activeStep d s else s

/-! ### The Packer's step (R122) -/

/-- PACK for caller `c` (R122): the width is checked first, then the capacity, then the words are returned. It writes
nothing but `REQ[c]`, `RSP[c]`, `HIST` and `FATAL`. -/
def packStep (c : CallerId) (pol : AlignPolicy) (w : Nat) (bytes : List Byte) (s : State) : State :=
  if s.fatal then s
  else
    match reqAt c s with
    | .empty => s
    | .waiting _ => s
    | .active => s
    | .pending _ =>
      match pack bytes pol w with
      | .invalidWidth => respond c .invalidWidth s
      | .words ws =>
        if bufferFits s.params bytes.length w then
          respond c (.packed (BitVec.ofNat 32 (wordCount bytes.length w)) ws) s
        else exhaust c s

/-! ### Steps of the callers, the transport and reset -/

/-- Whether caller `c` may issue `r` (R27): both its slots are empty, and `r` is a request (R80). -/
def mayIssue (c : CallerId) (r : Request) (s : State) : Bool :=
  decide (c < s.params.nCallers) && decide (reqAt c s = .empty) && decide (rspAt c s = none) && r.wellFormed

/-- A request enters caller `c`'s slot, with its payload captured (R27, R71). -/
def place (c : CallerId) (r : Request) (s : State) : State := emit (.issue c r) (setReq c (.pending r) s)

/-- Caller `c`'s issue step (R27). It belongs to the caller, so `FATAL` does not stop it (R199). -/
def issueStep (c : CallerId) (r : Request) (s : State) : State := if mayIssue c r s then place c r s else s

/-- Caller `c` takes its response out (R27), which the observation of the run keeps (R228). -/
def takeStep (c : CallerId) (s : State) : State :=
  match rspAt c s with
  | some r => { setRsp c none s with taken := s.taken ++ [(c, r)] }
  | none => s

/-- ANSWER (R162) with its draw `res : OK | ERR(e), e : TErr`; `k` is the drawn length of R169. A token that is no value
of `TErr` is no draw. -/
def answerStep (res : TResult) (k : Nat) (s : State) : State :=
  if s.fatal || !resultAllowed s.params res then s
  else
    match s.seq, s.cur, s.tx with
    | .wait, some d, some tx =>
      emit (.result (framedCaller d) res)
        { s with res := some res, live := some (receivedAfter s.params tx res k), seq := .done }
    | _, _, _ => s

/-- What the device received of the transaction a reset abandons: a prefix whose length `k` is a draw, if the call had
reached SUBMIT; nothing otherwise (R212). In DONE the draw stands in place of `live`: DESIGN CHOICE (log 9), safe. -/
def abandonedReceipt (k : Nat) (s : State) : List (List Byte) :=
  match s.seq, s.tx with
  | .wait, some tx => [(transactionStream s.params tx).take k]
  | .done, some tx => [(transactionStream s.params tx).take k]
  | _, _ => []

/-- The reset step (R210) with its draw of `CL`. The history and the responses taken are not reset (log 16),
the parameters do not change. -/
def resetStep (level : Level) (k : Nat) (s : State) : State :=
  emit .reset
    { s with
      seq := .idle, lock := .free, cur := none, tx := none, res := none, wbuf := [], fatal := false
      req := List.replicate s.params.nCallers .empty
      rsp := List.replicate s.params.nCallers none
      cl := level
      live := none
      device := s.device ++ abandonedReceipt k s }

/-! ### The schedule (log 1, 2) -/

/-- The move of the next step: the head of the plan, or the free move at the counter. -/
def nextMove (s : State) : Move :=
  match s.plan with
  | m :: _ => m
  | [] => Config.freeMove s.draws

/-- The move is used up. -/
def advance (s : State) : State := { s with plan := s.plan.tail, draws := s.draws + 1 }

/-- Caller 0's issue of `r` in a block that is not halted, its last response taken out, scheduled to be served next: the
state from which the next step runs `r`. It stands for a load from outside the machine. DESIGN CHOICE (log 8): from a
state in which caller 0 may issue, `State.reset` among them, it is the issue step, which is safe. A halt is cleared, and a
request that caller 0 has outstanding (PENDING, WAITING or ACTIVE) is overwritten with its Issue event emitted, though R27
and R230 give a caller no such issue: unsafe there, since no run reaches that state. -/
def loadRequest (r : Request) (s : State) : State :=
  { place 0 r (takeStep 0 { s with fatal := false }) with plan := .serve 0 :: s.plan }

end Sys2Proof.Machine
end

