-- ==== Sys2Proof/Machine/Framer.lean ====
section
/-! DEFINITION. The Framer family: the meanings of SEND and SENDP. -/

namespace Sys2Proof.Machine

/-- `SEND` (R141, R142, R156): the step this request enables for the caller served; the call is ACCEPT, GRANT, LINE,
BUILD, SUBMIT, the transport's ANSWER, COMPLETE. -/
def execSend (cmd : Byte) (s : State) : Host.Outcome State Fault Refusal :=
  .next (framerStep (.send s.turn cmd) s)

/-- `SENDP` (R145, R147, R156): as SEND, with the payload. -/
def execSendp (cmd : Byte) (pol : AlignPolicy) (bytes : List Byte) (s : State) : Host.Outcome State Fault Refusal :=
  .next (framerStep (.sendp s.turn cmd pol bytes) s)

end Sys2Proof.Machine
end

