-- ==== Sys2Proof/Machine/Packer.lean ====
section
/-! DEFINITION. The Packer family: the meaning of PACK. -/

namespace Sys2Proof.Machine

/-- `PACK` (R122): the Packer's one step for the caller served. -/
def execPack (pol : AlignPolicy) (width : Byte) (bytes : List Byte) (s : State) :
    Host.Outcome State Fault Refusal :=
  .next (packStep s.turn pol (widthOperand width) bytes s)

end Sys2Proof.Machine
end

