-- ==== Sys2Proof/Machine/Dispatch.lean ====
section
/-! DEFINITION. One arm for each operation of the opcode table. -/

namespace Sys2Proof.Machine

def exec (i : Instr) (s : State) : Host.Outcome State Fault Refusal :=
  match i with
  | .send cmd => Sys2Proof.Machine.execSend cmd s
  | .sendp cmd pol bytes => Sys2Proof.Machine.execSendp cmd pol bytes s
  | .pack pol width bytes => Sys2Proof.Machine.execPack pol width bytes s

end Sys2Proof.Machine
end

