-- ==== Sys2Proof/Machine/Schedule.lean ====
section
/-! DEFINITION. Fetching a caller's request, and which agent's step a move is. -/

namespace Sys2Proof.Machine

/-- The step that caller `c`'s request enables (R122, R156, R183), by its slot: a pending request is decoded and
rejected or run; a waiting request and the active one are run as they were decoded. The block takes no step while
`FATAL = 1` (R199). -/
def serve (c : CallerId) (s : State) : Host.Outcome State Fault Refusal :=
  if s.fatal then .next s
  else
    match reqAt c s with
    | .empty => .next s
    | .pending r =>
      match fetchRequest r with
      | .illegal _ => .next (reject c s)
      | .shortPayload => .fault .payloadOutOfRange
      | .instr i => exec i s
    | .waiting d => exec (framedInstr d) s
    | .active =>
      match s.cur with
      | some d => if framedCaller d = c then exec (framedInstr d) s else .next s
      | none => .next s

/-- One step of the agent that the move names (R20). -/
def takeMove (m : Move) (s : State) : Host.Outcome State Fault Refusal :=
  match m with
  | .serve c => serve c { s with turn := c }
  | .issue c r => .next (issueStep c r s)
  | .take c => .next (takeStep c s)
  | .answer res k => .next (answerStep res k s)
  | .reset level k => .next (resetStep level k s)

end Sys2Proof.Machine
end

