-- ==== Sys2Proof/Machine/Step.lean ====
section
/-! DEFINITION. One step of the system, and how a request is put where the next step runs it. -/

namespace Sys2Proof.Machine

/-- One atomic step (R15, R20): the environment's next move is used up, and the agent it names takes its step. -/
def step (s : State) : Host.Outcome State Fault Refusal := takeMove (nextMove s) (advance s)

/-- The state whose next step runs the request with the bits `w`, whatever caller 0's slot held: DESIGN CHOICE (log 8), unsafe
where the block is halted or caller 0 has a request outstanding. -/
def State.withFetchWord (s : State) (nbits w : Nat) : State := loadRequest (tableRequest nbits w) s

end Sys2Proof.Machine
end

