-- ==== Sys2Proof/Machine/Text.lean ====
section
/-! DEFINITION. The textual form of a request (R98): `send CMD`, `sendp CMD, POLICY, [bytes]` with its long form
`send_with_payload`, `pack POLICY, WIDTH, [bytes]`. There are no pseudo-operations (R99). How a literal and the spaces
are written is a DESIGN CHOICE (log 13): safe; no step reads a text. -/

namespace Sys2Proof.Machine

/-- The tokens of a text. -/
inductive Token where
  | word (cs : List Char)
  | comma
  | openBracket
  | closeBracket
  deriving DecidableEq, Repr

/-- Put a character in front of the word that starts the list, or start a word with it. -/
def joinChar (ch : Char) : List Token → List Token
  | .word cs :: rest => .word (ch :: cs) :: rest
  | rest => .word [ch] :: rest

/-- Tokens of a text, right to left: `joined` says that the next character belongs to the word in front. Letters are
read in lower case, since mnemonics are case-insensitive (R98). -/
def tokensAux : List Char → List Token × Bool
  | [] => ([], false)
  | ch :: rest =>
    let (ts, joined) := tokensAux rest
    if ch = ' ' then (ts, false)
    else if ch = ',' then (.comma :: ts, false)
    else if ch = '[' then (.openBracket :: ts, false)
    else if ch = ']' then (.closeBracket :: ts, false)
    else if joined then (joinChar ch.toLower ts, true)
    else (.word [ch.toLower] :: ts, true)

/-- Tokens of a text. -/
def tokens (text : String) : List Token := (tokensAux text.toList).1

/-- The value of a digit in base 10 or 16. -/
def digitValue (ch : Char) : Option Nat :=
  if '0' ≤ ch ∧ ch ≤ '9' then some (ch.toNat - '0'.toNat)
  else if 'a' ≤ ch ∧ ch ≤ 'f' then some (ch.toNat - 'a'.toNat + 10)
  else none

/-- Digits read in a base, most significant first. -/
def digitsValue (base : Nat) : Nat → List Char → Option Nat
  | acc, [] => some acc
  | acc, ch :: rest =>
    match digitValue ch with
    | some v => if v < base then digitsValue base (acc * base + v) rest else none
    | none => none

/-- A number: hexadecimal after `0x` (R13), decimal otherwise. -/
def numberValue : List Char → Option Nat
  | [] => none
  | '0' :: 'x' :: ch :: rest => digitsValue 16 0 (ch :: rest)
  | ch :: rest => digitsValue 10 0 (ch :: rest)

/-- A byte literal, or a `WIDTH` of `0` to `255` (R98). -/
def byteValue (cs : List Char) : Option Byte :=
  match numberValue cs with
  | some v => if v < 256 then some (BitVec.ofNat 8 v) else none
  | none => none

/-- `right` or `left` (R98). -/
def policyValue (cs : List Char) : Option AlignPolicy :=
  if cs = "right".toList then some .rightAlign
  else if cs = "left".toList then some .leftAlign
  else none

/-- The bytes of a bracketed list after its first byte, up to the bracket that ends the text. -/
def moreBytes : List Token → Option (List Byte)
  | [.closeBracket] => some []
  | .comma :: .word cs :: rest =>
    match byteValue cs, moreBytes rest with
    | some b, some bs => some (b :: bs)
    | _, _ => none
  | _ => none

/-- A bracketed list of byte literals that ends the text. -/
def payloadValue : List Token → Option (List Byte)
  | [.openBracket, .closeBracket] => some []
  | .openBracket :: .word cs :: rest =>
    match byteValue cs, moreBytes rest with
    | some b, some bs => some (b :: bs)
    | _, _ => none
  | _ => none

/-- The operands of `sendp` (R98). -/
def sendpOperands : List Token → Option Instr
  | .word cmd :: .comma :: .word pol :: .comma :: rest =>
    match byteValue cmd, policyValue pol, payloadValue rest with
    | some c, some p, some bs => some (.sendp c p bs)
    | _, _, _ => none
  | _ => none

/-- The operands of `pack` (R98). -/
def packOperands : List Token → Option Instr
  | .word pol :: .comma :: .word width :: .comma :: rest =>
    match policyValue pol, byteValue width, payloadValue rest with
    | some p, some w, some bs => some (.pack p w bs)
    | _, _, _ => none
  | _ => none

/-- The request a text writes (R98); `none` for a text of no form. -/
def assemble (text : String) : Option Instr :=
  match tokens text with
  | .word m :: rest =>
    if m = "send".toList then
      match rest with
      | [.word cmd] => (byteValue cmd).map Instr.send
      | _ => none
    else if m = "sendp".toList ∨ m = "send_with_payload".toList then sendpOperands rest
    else if m = "pack".toList then packOperands rest
    else none
  | _ => none

end Sys2Proof.Machine
end

