-- ==== Sys2Proof/Safety.lean ====
section
/-! DEFINITION. What counts as a good state, a good history and a good end of a run, in the terms claims use. -/

namespace Sys2Proof.Safety

open Sys2Proof.Machine

/-! ### The state invariant (R27, R35, R39) -/

/-- The framed call `d` is between GRANT and COMPLETE: it is in `CUR`, its caller holds `LOCK` (R35) and is `ACTIVE`
(R27), and it passed ACCEPT's buffer check (R157). -/
structure InCall (d : Framed) (s : State) : Prop where
  cur    : s.cur = some d
  lock   : s.lock = .held (framedCaller d)
  active : reqAt (framedCaller d) s = .active
  fits   : framedFits s.params d = true

/-- `TX` and `WBUF` hold nothing. -/
def Unbuilt (s : State) : Prop := s.tx = none ∧ s.wbuf = []

/-- `TX` and `WBUF` hold what BUILD makes of `d` (R160). -/
def Built (d : Framed) (s : State) : Prop :=
  s.tx = some (buildTransaction s.params d) ∧ s.wbuf = buildWords s.params d

/-- No answer has come: `RES` and the receipt are empty. -/
def Unanswered (s : State) : Prop := s.res = none ∧ s.live = none

/-- The transport answered `res`, and the device received `bytes`: all of the stream after `OK` (R166), a prefix of it
after an error (R169). -/
def Answered (d : Framed) (s : State) : Prop :=
  ∃ res bytes, s.res = some res ∧ s.live = some bytes ∧
    bytes <+: transactionStream s.params (buildTransaction s.params d) ∧
    (res = .ok → bytes = transactionStream s.params (buildTransaction s.params d))

/-- What `LOCK`, `CUR`, `TX`, `WBUF` and `RES` hold in each phase (R39). -/
def FramerOk (s : State) : Prop :=
  match s.seq with
  | .idle => s.lock = .free ∧ s.cur = none ∧ Unbuilt s ∧ Unanswered s
  | .line => ∃ d, InCall d s ∧ Unbuilt s ∧ Unanswered s
  | .build => ∃ d, InCall d s ∧ Unbuilt s ∧ Unanswered s
  | .submit => ∃ d, InCall d s ∧ Built d s ∧ Unanswered s
  | .wait => ∃ d, InCall d s ∧ Built d s ∧ Unanswered s
  | .done => ∃ d, InCall d s ∧ Built d s ∧ Answered d s

/-- What caller `c`'s request slot may hold (R27): a caller with an outstanding request has no response waiting. -/
def SlotOk (s : State) (c : CallerId) : ReqSlot → Prop
  | .empty => True
  | .pending r => rspAt c s = none ∧ r.wellFormed = true
  | .waiting d => rspAt c s = none ∧ framedCaller d = c ∧ framedFits s.params d = true
  | .active => rspAt c s = none ∧ ∃ d, s.cur = some d ∧ framedCaller d = c

/-- The invariant of the block: one slot of each kind for every caller, each slot holds what it may, and the Framer's
registers agree with its phase. -/
structure BlockInv (s : State) : Prop where
  reqLength : s.req.length = s.params.nCallers
  rspLength : s.rsp.length = s.params.nCallers
  slots     : ∀ c, SlotOk s c (reqAt c s)
  framer    : FramerOk s

/-! ### The bus as the history shows it (R62-R65, R153) -/

/-- How far the transaction in flight has come, read from the events alone. -/
inductive Bus where
  | quiet
  | lineSet (c : CallerId)
  | submitted (c : CallerId)
  | answered (c : CallerId) (res : TResult)
  deriving DecidableEq, Repr

/-- A response of PACK or of the Reject step, which no transaction precedes (R95). -/
def busless : Response → Bool
  | .ok => false
  | .packed _ _ => true
  | .invalidWidth => true
  | .transportError _ => false
  | .illegalRequest => true

/-- A response while caller `owner`'s call is on the bus: only another caller's, and only one no transaction precedes. -/
def bystander (owner c : CallerId) (rsp : Response) (b : Bus) : Option Bus :=
  if c ≠ owner ∧ busless rsp = true then some b else none

/-- The events the rules allow next (R63, R64, R65, R153): `SetLine(c, COMMAND)`, then `Submit(c)`, then `Result(c)`,
then `Respond(c)` with that result, once each, and no other caller's in between; `none` is a forbidden event. -/
def busNext (b : Bus) (e : Event) : Option Bus :=
  match e with
  | .issue _ _ => some b
  | .fatal _ => some b
  | .reset => some .quiet
  | .setLine c level =>
    match b with
    | .quiet => if level = .command then some (.lineSet c) else none
    | .lineSet _ => none
    | .submitted _ => none
    | .answered _ _ => none
  | .submit c _ =>
    match b with
    | .lineSet owner => if c = owner then some (.submitted owner) else none
    | .quiet => none
    | .submitted _ => none
    | .answered _ _ => none
  | .result c res =>
    match b with
    | .submitted owner => if c = owner then some (.answered owner res) else none
    | .quiet => none
    | .lineSet _ => none
    | .answered _ _ => none
  | .respond c rsp =>
    match b with
    | .quiet => if busless rsp then some .quiet else none
    | .lineSet owner => bystander owner c rsp b
    | .submitted owner => bystander owner c rsp b
    | .answered owner res =>
      if c = owner then (if rsp = framedResponse res then some .quiet else none) else bystander owner c rsp b

/-- The bus after a history; `none` if some event of it was forbidden. -/
def busRun (hist : List Event) : Option Bus := hist.foldl (fun b e => b.bind fun b => busNext b e) (some .quiet)

/-- The bus that the block's registers show. -/
def busOf (s : State) : Bus :=
  match s.seq, s.cur, s.res with
  | .build, some d, _ => .lineSet (framedCaller d)
  | .submit, some d, _ => .lineSet (framedCaller d)
  | .wait, some d, _ => .submitted (framedCaller d)
  | .done, some d, some res => .answered (framedCaller d) res
  | _, _, _ => .quiet

/-- No event of the history is forbidden, and the registers are where the history says. -/
def BusOrder (s : State) : Prop := busRun s.hist = some (busOf s)

/-! ### Requests and responses as the history shows them (R27) -/

/-- Whether caller `c` has a request outstanding after an event. -/
def openNext (c : CallerId) (o : Bool) (e : Event) : Bool :=
  match e with
  | .issue c' _ => if c' = c then true else o
  | .respond c' _ => if c' = c then false else o
  | .reset => false
  | .setLine _ _ => o
  | .submit _ _ => o
  | .result _ _ => o
  | .fatal _ => o

/-- Whether caller `c` has a request outstanding after a history. -/
def isOpen (c : CallerId) (hist : List Event) : Bool := hist.foldl (openNext c) false

/-- `REQ[c]` is EMPTY exactly when the history shows no outstanding request of `c`. -/
def OpenCalls (s : State) : Prop := ∀ c, reqAt c s ≠ .empty ↔ isOpen c s.hist = true

/-! ### The control line (R23, R33, R39 item 5) -/

/-- Whether a `SetLine` came since the last `Reset`. -/
def lineKnown (hist : List Event) : Bool :=
  hist.foldl (fun k e =>
    match e with
    | .setLine _ _ => true
    | .reset => false
    | .issue _ _ => k
    | .submit _ _ => k
    | .result _ _ => k
    | .respond _ _ => k
    | .fatal _ => k) false

/-- After the first `SetLine` since the last `Reset` the line is at COMMAND (R39, item 5). -/
def LineOk (s : State) : Prop := lineKnown s.hist = true → s.cl = .command

/-! ### The error values (R9, R30) -/

/-- A result with its error value renamed. -/
def renameResult (f : TErr → TErr) : TResult → TResult
  | .ok => .ok
  | .err e => .err (f e)

/-- A response with its error value renamed. -/
def renameResponse (f : TErr → TErr) : Response → Response
  | .ok => .ok
  | .packed count words => .packed count words
  | .invalidWidth => .invalidWidth
  | .transportError e => .transportError (f e)
  | .illegalRequest => .illegalRequest

/-- An event with its error value renamed. -/
def renameEvent (f : TErr → TErr) : Event → Event
  | .issue c r => .issue c r
  | .setLine c level => .setLine c level
  | .submit c tx => .submit c tx
  | .result c res => .result c (renameResult f res)
  | .respond c rsp => .respond c (renameResponse f rsp)
  | .fatal c => .fatal c
  | .reset => .reset

/-- A move with its error value renamed. -/
def renameMove (f : TErr → TErr) : Move → Move
  | .serve c => .serve c
  | .issue c r => .issue c r
  | .take c => .take c
  | .answer res k => .answer (renameResult f res) k
  | .reset level k => .reset level k

/-- A state of an instance whose error type is `ty`, with every error value renamed. -/
def renameErrors (ty : ErrType) (f : TErr → TErr) (s : State) : State :=
  { s with
    params := { s.params with errType := ty }
    rsp := s.rsp.map (Option.map (renameResponse f))
    hist := s.hist.map (renameEvent f)
    res := s.res.map (renameResult f)
    taken := s.taken.map fun x => (x.1, renameResponse f x.2)
    plan := s.plan.map (renameMove f) }

/-- The outcome of a step with every error value renamed. -/
def renameOutcome (ty : ErrType) (f : TErr → TErr) :
    Host.Outcome State Fault Refusal → Host.Outcome State Fault Refusal
  | .next s => .next (renameErrors ty f s)
  | .fault r => .fault r
  | .refused r => .refused r

/-! ### The observation of a run (R228) -/

/-- What is observed of a run (R228): the history, and the responses the callers took out. -/
def observation (s : State) : List Event × List (CallerId × Response) := (s.hist, s.taken)

/-- The observation is sound: every response that waits or was taken out is one the history shows delivered to that
caller, and every error value in it and in `RES` is one of the instance's `TErr`. -/
structure Observed (s : State) : Prop where
  waiting   : ∀ c r, rspAt c s = some r → Event.respond c r ∈ s.hist
  taken     : ∀ c r, (c, r) ∈ s.taken → Event.respond c r ∈ s.hist
  latched   : ∀ res, s.res = some res → resultAllowed s.params res = true
  results   : ∀ c res, Event.result c res ∈ s.hist → resultAllowed s.params res = true
  responses : ∀ c e, Event.respond c (.transportError e) ∈ s.hist → isErrorOf s.params.errType e = true

/-! ### Ends of a run (R228) -/

/-- A good end of a run (R228): `FATAL = 0`, `SEQ = IDLE`, `LOCK = FREE`, and every `REQ[c]` is EMPTY. A halted block
(R199) is none. -/
def goodEnd (s : State) : Bool :=
  !s.fatal && decide (s.seq = .idle) && decide (s.lock = .free) && s.req.all fun x => decide (x = .empty)

end Sys2Proof.Safety
end

