-- ==== Sys2Proof/Certificates/Slice0/Obligations.lean ====
section
/-! DEFINITION. The statements for the provers. Each docstring names the rule of spec/ it formalises; "derived" says that
the spec marks the rule as its own inference, or that only a part of the rule is stated. -/

open Sys2Proof Sys2Proof.Machine Sys2Proof.Safety

/-! ### Encoding (30_encoding.md) -/

/-- Derived (30_encoding.md sections 2 and 4, R90, R98): the encoder's request is a request, and decoding it gives the
instruction back, at every value of every operand. -/
def Obligations.DecodeOfEncodeIsIdentity : Prop :=
  ∀ i : Instr, i.wellFormed = true →
    (encode i).wellFormed = true ∧ fetchRequest (encode i) = .instr i

/-- Derived (30_encoding.md sections 1 and 2, R89, R90): each request that decodes is the one request of its
instruction, so no bit of it is ignored. -/
def Obligations.EncodeOfDecodeIsIdentity : Prop :=
  ∀ (r : Request) (i : Instr), r.wellFormed = true → fetchRequest r = .instr i →
    i.wellFormed = true ∧ encode i = r

/-- Derived (R100, "[derived: from rules R81 to R86]"): the reference encodings. -/
def Obligations.ReferenceEncodingsDecode : Prop :=
  decode 0x00000000#32 0#32 = .send 0x00#8 ∧
  decode 0x00002C00#32 0#32 = .send 0x2C#8 ∧
  (∀ n, decode 0x00002A01#32 n = .sendp 0x2A#8 .rightAlign) ∧
  (∀ n, decode 0x00002A09#32 n = .sendp 0x2A#8 .leftAlign) ∧
  (∀ n, decode 0x00040002#32 n = .pack .rightAlign 4#8) ∧
  (∀ n, decode 0x0004000A#32 n = .pack .leftAlign 4#8) ∧
  (∀ n, decode 0x00000002#32 n = .pack .rightAlign 0#8) ∧
  (∀ n, ∃ why, decode 0x00000003#32 n = .illegal why) ∧
  (∃ why, decode 0x00002C10#32 0#32 = .illegal why)

/-- Derived (the first sentence of R91; what an illegal request does is RejectStepAnswersIllegalRequest): which
requests are illegal. -/
def Obligations.IllegalExactlyAsListed : Prop :=
  ∀ desc len : BitVec 32,
    (∃ why, decode desc len = .illegal why) ↔
      (3 ≤ (fieldOp desc).toNat ∨ fieldOrd desc = 1#1 ∨ fieldRsv0 desc ≠ 0#3 ∨ fieldRsv1 desc ≠ 0#8 ∨
        (fieldOp desc = 0#3 ∧ (fieldPol desc ≠ 0#1 ∨ fieldWb desc ≠ 0#8 ∨ len ≠ 0#32)) ∨
        (fieldOp desc = 1#3 ∧ fieldWb desc ≠ 0#8) ∨
        (fieldOp desc = 2#3 ∧ fieldCmd desc ≠ 0#8))

/-- Derived (R89, "[derived: from the table above]"): the match and mask rows of opcode_table.json select exactly what
`decode` decodes, and a request no row selects is illegal. -/
def Obligations.OpcodeRowsSelectWhatDecodes : Prop :=
  ∀ desc len : BitVec 32,
    (rowSend.selects desc len = true ↔ ∃ cmd, decode desc len = .send cmd) ∧
    (rowSendp.selects desc len = true ↔ ∃ cmd pol, decode desc len = .sendp cmd pol) ∧
    (rowPack.selects desc len = true ↔ ∃ pol w, decode desc len = .pack pol w) ∧
    ((∃ why, decode desc len = .illegal why) ↔ ∀ row ∈ opcodeTable, row.selects desc len = false)

/-! ### The step (10_state.md section 1, log 1, 5, 8) -/

/-- Derived (R20, R122, R156; the schedule is the model's, log 1 and 5): a step runs the instruction that the served
caller's slot holds: a pending request's decoded one, a waiting request's, the active call's. Around `exec` the step
uses up the move and notes the caller served. -/
def Obligations.StepRunsDecodedInstruction : Prop :=
  ∀ (s : State) (c : CallerId), s.fatal = false → nextMove s = .serve c →
    (∀ r i, reqAt c s = .pending r → fetchRequest r = .instr i → step s = exec i { advance s with turn := c }) ∧
    (∀ d, reqAt c s = .waiting d → step s = exec (framedInstr d) { advance s with turn := c }) ∧
    (∀ d, reqAt c s = .active → s.cur = some d → framedCaller d = c →
      step s = exec (framedInstr d) { advance s with turn := c })

/-- Derived (R80, R90): a request placed by `withFetchWord` is what the next step runs, from every state. The placing is the
model's choice (log 8): it clears a halt and overwrites a request that caller 0 has outstanding. -/
def Obligations.FetchWordIsRunNext : Prop :=
  ∀ (s : State) (nbits w : Nat) (i : Instr), 0 < s.req.length → fetchRequest (tableRequest nbits w) = .instr i →
    step (s.withFetchWord nbits w) = exec i { advance (s.withFetchWord nbits w) with turn := 0 } ∧
    decodeTableWord nbits w = some i

/-! ### The function pack (40_packer.md) -/

/-- R117: packing the empty sequence gives the empty sequence. -/
def Obligations.PackOfEmptyIsEmpty : Prop :=
  ∀ (pol : AlignPolicy) (w : Nat), 1 ≤ w → pack [] pol w = .words []

/-- R118: width 0 raises `InvalidWidth` whatever the bytes and the policy, and produces no word. -/
def Obligations.PackOfZeroWidthIsInvalid : Prop :=
  ∀ (bytes : List Byte) (pol : AlignPolicy), pack bytes pol 0 = .invalidWidth ∧ ∀ ws, pack bytes pol 0 ≠ .words ws

/-- Derived (R13, R114, R115): the word count is the least that holds the bytes, and the pad is shorter than a word and
absent exactly when the width divides the length. -/
def Obligations.WordCountAndPadAreLeast : Prop :=
  ∀ n w : Nat, 1 ≤ w →
    n ≤ wordCount n w * w ∧ (∀ q, n ≤ q * w → wordCount n w ≤ q) ∧ wordCount n w ≤ n ∧ (1 ≤ n → 1 ≤ wordCount n w) ∧
    padCount n w ≤ w - 1 ∧ (padCount n w = 0 ↔ n % w = 0) ∧ wordCount n w * w = n + padCount n w

/-- Derived (R111, R120, R126): for `w >= 1` packing never fails, gives `ceil(n/w)` words, and every word is below
`2^(8*w)`. -/
def Obligations.PackGivesCountedBoundedWords : Prop :=
  ∀ (bytes : List Byte) (pol : AlignPolicy) (w : Nat), 1 ≤ w →
    ∃ ws, pack bytes pol w = .words ws ∧ ws.length = wordCount bytes.length w ∧ ∀ v ∈ ws, v < 2 ^ (8 * w)

/-- Derived (R116, "[derived: from rules R111 to R113]"): every lane of every word, for both policies. -/
def Obligations.PackLanesHoldBytes : Prop :=
  ∀ (bytes : List Byte) (w j k : Nat), 1 ≤ w → j < wordCount bytes.length w → k < w →
    lane w k ((packWords bytes .rightAlign w).getD j 0) =
      (if padCount bytes.length w ≤ j * w + k then bytes.getD (j * w + k - padCount bytes.length w) 0#8 else 0#8) ∧
    lane w k ((packWords bytes .leftAlign w).getD j 0) =
      (if j * w + k < bytes.length then bytes.getD (j * w + k) 0#8 else 0#8)

/-- Derived (R124): without a partial word the policies agree. -/
def Obligations.PackPoliciesAgreeWithoutPad : Prop :=
  ∀ (bytes : List Byte) (w : Nat), 1 ≤ w → bytes.length % w = 0 → pack bytes .rightAlign w = pack bytes .leftAlign w

/-- Derived (R125): a payload shorter than a word gives exactly one word. -/
def Obligations.PackOfShortPayloadIsOneWord : Prop :=
  ∀ (bytes : List Byte) (w : Nat), 0 < bytes.length → bytes.length < w →
    pack bytes .rightAlign w = .words [beValue bytes] ∧
    pack bytes .leftAlign w = .words [beValue bytes * 2 ^ (8 * (w - bytes.length))]

/-- Derived (R127): the words read as one big-endian number. -/
def Obligations.PackKeepsBigEndianValue : Prop :=
  ∀ (bytes : List Byte) (w : Nat), 1 ≤ w →
    wordsValue w (packWords bytes .rightAlign w) = beValue bytes ∧
    wordsValue w (packWords bytes .leftAlign w) = beValue bytes * 2 ^ (8 * padCount bytes.length w)

/-- Derived (R56): the byte image of the packed words is the padded byte sequence. -/
def Obligations.ImageOfPackIsPaddedBytes : Prop :=
  ∀ (bytes : List Byte) (pol : AlignPolicy) (w : Nat), 1 ≤ w → image w (packWords bytes pol w) = paddedBytes bytes pol w

/-- Derived (R128): given the true length, the bytes are recovered. -/
def Obligations.UnpackOfPackIsIdentity : Prop :=
  ∀ (bytes : List Byte) (pol : AlignPolicy) (w : Nat), 1 ≤ w →
    unpack (packWords bytes pol w) bytes.length pol w = bytes

/-! ### PACK (R122) -/

/-- Derived (R122, R123, R130): where PACK completes: a pending request of the caller served, a width that is not 0 and
a buffer that fits. The response carries the words; `COUNT` is exact for every length a request can have. -/
def Obligations.PackRequestCompletes : Prop :=
  ∀ (pol : AlignPolicy) (width : Byte) (bytes : List Byte) (s : State) (r : Request),
    s.fatal = false → reqAt s.turn s = .pending r → width ≠ 0#8 →
    bufferFits s.params bytes.length (widthOperand width) = true →
    exec (.pack pol width bytes) s =
      .next { s with
        req := s.req.set s.turn .empty
        rsp := s.rsp.set s.turn (some (.packed (BitVec.ofNat 32 (wordCount bytes.length (widthOperand width)))
          (packWords bytes pol (widthOperand width))))
        hist := s.hist ++ [.respond s.turn (.packed (BitVec.ofNat 32 (wordCount bytes.length (widthOperand width)))
          (packWords bytes pol (widthOperand width)))] } ∧
    (bytes.length < 2 ^ 32 →
      (BitVec.ofNat 32 (wordCount bytes.length (widthOperand width))).toNat = wordCount bytes.length (widthOperand width))

/-- Derived (R181, R187): PACK with `WB = 0` answers INVALID_WIDTH whatever the length and the capacity, and writes
nothing else. -/
def Obligations.PackOfZeroWidthAnswersInvalidWidth : Prop :=
  ∀ (pol : AlignPolicy) (bytes : List Byte) (s : State) (r : Request),
    s.fatal = false → reqAt s.turn s = .pending r →
    exec (.pack pol 0#8 bytes) s =
      .next { s with
        req := s.req.set s.turn .empty
        rsp := s.rsp.set s.turn (some .invalidWidth)
        hist := s.hist ++ [.respond s.turn .invalidWidth] }

/-- Derived (R184; the halt it refers to is FatalIsSticky): a word buffer beyond `BUF_BYTES` sets `FATAL`, in the PACK
step and in SENDP's ACCEPT step, without a response; an unbounded buffer always fits. -/
def Obligations.ExhaustedBufferSetsFatal : Prop :=
  (∀ (pol : AlignPolicy) (width : Byte) (bytes : List Byte) (s : State) (r : Request),
    s.fatal = false → reqAt s.turn s = .pending r → width ≠ 0#8 →
    bufferFits s.params bytes.length (widthOperand width) = false →
    exec (.pack pol width bytes) s = .next { s with fatal := true, hist := s.hist ++ [.fatal s.turn] }) ∧
  (∀ (cmd : Byte) (pol : AlignPolicy) (bytes : List Byte) (s : State) (r : Request),
    s.fatal = false → reqAt s.turn s = .pending r →
    bufferFits s.params bytes.length s.params.wordBytes = false →
    exec (.sendp cmd pol bytes) s = .next { s with fatal := true, hist := s.hist ++ [.fatal s.turn] }) ∧
  (∀ (p : Params) (n w : Nat), bufferFits p n w = true ↔ ∀ cap, p.bufBytes = some cap → wordCount n w * w ≤ cap)

/-- Derived (R72, R121, R122): PACK leaves unchanged every register but its caller's two slots, HIST and FATAL. -/
def Obligations.PackRequestFrame : Prop :=
  ∀ (pol : AlignPolicy) (width : Byte) (bytes : List Byte) (s t : State), exec (.pack pol width bytes) s = .next t →
    t.params = s.params ∧ t.seq = s.seq ∧ t.cl = s.cl ∧ t.lock = s.lock ∧ t.wbuf = s.wbuf ∧ t.tx = s.tx ∧
    t.res = s.res ∧ t.cur = s.cur ∧ t.taken = s.taken ∧ t.live = s.live ∧ t.device = s.device ∧
    t.plan = s.plan ∧ t.draws = s.draws ∧ t.turn = s.turn ∧
    (∀ c, c ≠ s.turn → reqAt c t = reqAt c s ∧ rspAt c t = rspAt c s)

/-- Derived (R72, D19): a PACK step that halts nothing may fall before or after a Framer step of another caller's call:
the two orders differ in the order of the events only. Each history is the one before with the same events appended,
those of the PACK step and those of the Framer step, so the two are permutations of each other. -/
def Obligations.PackCommutesWithFramer : Prop :=
  ∀ (c : CallerId) (pol : AlignPolicy) (w : Nat) (bytes : List Byte) (d : Framed) (s : State),
    framedCaller d ≠ c → framedFits s.params d = true → bufferFits s.params bytes.length w = true →
    { framerStep d (packStep c pol w bytes s) with hist := [] } =
      { packStep c pol w bytes (framerStep d s) with hist := [] } ∧
    ∃ packed framed : List Event,
      (packStep c pol w bytes s).hist = s.hist ++ packed ∧ (framerStep d s).hist = s.hist ++ framed ∧
      (framerStep d (packStep c pol w bytes s)).hist = s.hist ++ packed ++ framed ∧
      (packStep c pol w bytes (framerStep d s)).hist = s.hist ++ framed ++ packed ∧
      (s.hist ++ packed ++ framed).Perm (s.hist ++ framed ++ packed)

/-- Derived (R23, R93, R94, R144): the codes of STATUS and of the control line, and the status of every response. -/
def Obligations.StatusAndLineCodesAsListed : Prop :=
  (statusCode .ok = 0b00#2 ∧ statusCode .invalidWidth = 0b01#2 ∧ statusCode .transportError = 0b10#2 ∧
    statusCode .illegalRequest = 0b11#2) ∧
  (levelBit .command = 0#1 ∧ levelBit .data = 1#1) ∧
  (∀ (count : BitVec 32) (ws : List Word), statusOf (.packed count ws) = .ok) ∧
  statusOf .invalidWidth = .invalidWidth ∧ statusOf .illegalRequest = .illegalRequest ∧
  (∀ res : TResult,
    (res = .ok → statusOf (framedResponse res) = .ok) ∧
    (∀ e, res = .err e → statusOf (framedResponse res) = .transportError ∧ framedResponse res = .transportError e))

/-! ### Illegal requests (R183) -/

/-- R183: the Reject step. -/
def Obligations.RejectStepAnswersIllegalRequest : Prop :=
  ∀ (c : CallerId) (s : State) (r : Request) (why : Illegal),
    s.fatal = false → reqAt c s = .pending r → decode r.desc r.len = .illegal why →
    serve c s =
      .next { s with
        req := s.req.set c .empty
        rsp := s.rsp.set c (some .illegalRequest)
        hist := s.hist ++ [.respond c .illegalRequest] }

/-! ### Sequencer steps (41_framer.md section 2) -/

/-- Derived (R157; that `exec` takes the operands of the instruction and not of the slot's record is the model's choice,
log 15, and StepRunsDecodedInstruction says that a step gives it the slot's): ACCEPT, for SEND and for SENDP; no later step
of a framed request halts the block or answers with a rejection. -/
def Obligations.AcceptStepChecksBuffer : Prop :=
  ∀ (s : State) (r : Request), s.fatal = false → reqAt s.turn s = .pending r →
    (∀ cmd, exec (.send cmd) s = .next { s with req := s.req.set s.turn (.waiting (.send s.turn cmd)) }) ∧
    (∀ cmd pol bytes,
      exec (.sendp cmd pol bytes) s =
        .next (if bufferFits s.params bytes.length s.params.wordBytes then
          { s with req := s.req.set s.turn (.waiting (.sendp s.turn cmd pol bytes)) }
        else { s with fatal := true, hist := s.hist ++ [.fatal s.turn] })) ∧
    (∀ (i : Instr) (s' t : State), (∀ pol w b, i ≠ .pack pol w b) → s'.fatal = false →
      (∀ q, reqAt s'.turn s' ≠ .pending q) → exec i s' = .next t → t.fatal = false 
      ∧ ∀ c, Event.fatal c ∉ t.hist.drop s'.hist.length ∧ Event.respond c .illegalRequest ∉ t.hist.drop s'.hist.length ∧
        Event.respond c .invalidWidth ∉ t.hist.drop s'.hist.length)

/-- Derived (R158; that the state stays where the step is not enabled is the model's choice, log 7): GRANT, for whichever
waiting caller is served, and only when the lock is free and the sequencer idle. -/
def Obligations.GrantStepTakesLock : Prop :=
  ∀ (s : State) (d : Framed), s.fatal = false → framedCaller d = s.turn → reqAt s.turn s = .waiting d →
    exec (framedInstr d) s =
      .next (if s.lock = .free ∧ s.seq = .idle then
        { s with lock := .held s.turn, cur := some d, req := s.req.set s.turn .active, seq := .line }
      else s)

/-- R159: LINE. -/
def Obligations.LineStepDrivesCommand : Prop :=
  ∀ (s : State) (d : Framed), s.fatal = false → framedCaller d = s.turn → reqAt s.turn s = .active →
    s.cur = some d → s.seq = .line →
    exec (framedInstr d) s =
      .next { s with cl := .command, hist := s.hist ++ [.setLine s.turn .command], seq := .build }

/-- Derived (R160, whose last part is "[derived: from rule R157]"): BUILD for SEND, for SENDP with an empty payload and
for SENDP with a payload; the words then written fit the buffer. -/
def Obligations.BuildStepMakesTransaction : Prop :=
  ∀ s : State, s.fatal = false → reqAt s.turn s = .active → s.seq = .build →
    (∀ cmd, s.cur = some (.send s.turn cmd) →
      exec (.send cmd) s =
        .next { s with tx := some { command := cmd, payload := none, payloadBitLength := 0 }, seq := .submit }) ∧
    (∀ cmd pol, s.cur = some (.sendp s.turn cmd pol []) →
      exec (.sendp cmd pol []) s =
        .next { s with tx := some { command := cmd, payload := none, payloadBitLength := 0 }, seq := .submit }) ∧
    (∀ cmd pol bytes, bytes ≠ [] → s.cur = some (.sendp s.turn cmd pol bytes) →
      exec (.sendp cmd pol bytes) s =
        .next { s with
          wbuf := packWords bytes pol s.params.wordBytes
          tx := some { command := cmd, payload := some (packWords bytes pol s.params.wordBytes),
                       payloadBitLength := 8 * bytes.length }
          seq := .submit } ∧
      pack bytes pol s.params.wordBytes = .words (packWords bytes pol s.params.wordBytes) ∧
      (framedFits s.params (.sendp s.turn cmd pol bytes) = true → ∀ cap, s.params.bufBytes = some cap →
        (packWords bytes pol s.params.wordBytes).length * s.params.wordBytes ≤ cap))

/-- R161: SUBMIT. -/
def Obligations.SubmitStepCallsTransport : Prop :=
  ∀ (s : State) (d : Framed) (tx : Transaction), s.fatal = false → framedCaller d = s.turn →
    reqAt s.turn s = .active → s.cur = some d → s.seq = .submit → s.tx = some tx →
    exec (framedInstr d) s = .next { s with hist := s.hist ++ [.submit s.turn tx], seq := .wait }

/-- Derived (R162, R30, R31; what the device received stands in `live` by R166 and R169, and that record is the model's
choice, log 9): ANSWER, for every draw `OK` or `ERR(e)` with `e : TErr`; and the step need never happen: while the call is
in WAIT no other move but a reset moves the sequencer on. -/
def Obligations.AnswerStepLatchesResult : Prop :=
  ∀ (s : State) (d : Framed) (tx : Transaction), s.fatal = false → s.seq = .wait → s.cur = some d → s.tx = some tx →
    (∀ res k, resultAllowed s.params res = true → takeMove (.answer res k) s =
      .next { s with
        res := some res
        hist := s.hist ++ [.result (framedCaller d) res]
        seq := .done
        live := some (receivedAfter s.params tx res k) }) ∧
    (∀ m t, (∀ res k, m ≠ .answer res k) → (∀ level k, m ≠ .reset level k) → takeMove m s = .next t → t.seq = .wait)

/-- Derived (R163; that what the device received leaves `live` and joins the record in `device` is the model's choice,
log 9): COMPLETE. -/
def Obligations.CompleteStepReleasesAndResponds : Prop :=
  ∀ (s : State) (d : Framed) (res : TResult), s.fatal = false → framedCaller d = s.turn → reqAt s.turn s = .active →
    s.cur = some d → s.seq = .done → s.res = some res →
    exec (framedInstr d) s =
      .next { s with
        wbuf := [], tx := none, res := none, cur := none, lock := .free, seq := .idle
        req := s.req.set s.turn .empty
        rsp := s.rsp.set s.turn (some (match res with
          | .ok => .ok
          | .err e => .transportError e))
        hist := s.hist ++ [.respond s.turn (match res with
          | .ok => .ok
          | .err e => .transportError e)]
        device := s.device ++ s.live.toList, live := none }

/-- Derived (R155): the command byte is not interpreted: every value decodes, is accepted as every other, and is the
transaction's command; and two calls that differ in it only pass the same buffer check, write the same words and build
transactions that differ in the command only. -/
def Obligations.CommandByteIsNotInterpreted : Prop :=
  (∀ (p : Params) (c : CallerId) (cmd cmd' : Byte) (pol : AlignPolicy) (bytes : List Byte),
    buildTransaction p (.send c cmd') = { buildTransaction p (.send c cmd) with command := cmd' } ∧
    buildTransaction p (.sendp c cmd' pol bytes) = { buildTransaction p (.sendp c cmd pol bytes) with command := cmd' } ∧
    buildWords p (.sendp c cmd' pol bytes) = buildWords p (.sendp c cmd pol bytes) ∧
    framedFits p (.sendp c cmd' pol bytes) = framedFits p (.sendp c cmd pol bytes)) ∧
  ∀ cmd : Byte,
    fetchRequest (encode (.send cmd)) = .instr (.send cmd) ∧
    (∀ pol len, decode (encodeDesc (.sendp cmd pol [])) len = .sendp cmd pol) ∧
    (∀ (s : State) (r : Request), s.fatal = false → reqAt s.turn s = .pending r →
      exec (.send cmd) s = .next { s with req := s.req.set s.turn (.waiting (.send s.turn cmd)) } ∧
      (∀ pol bytes, bufferFits s.params bytes.length s.params.wordBytes = true →
        exec (.sendp cmd pol bytes) s =
          .next { s with req := s.req.set s.turn (.waiting (.sendp s.turn cmd pol bytes)) })) ∧
    (∀ s : State, s.fatal = false → reqAt s.turn s = .active → s.seq = .build →
      (s.cur = some (.send s.turn cmd) →
        ∃ t tx, exec (.send cmd) s = .next t ∧ t.tx = some tx ∧ tx.command = cmd) ∧
      (∀ pol bytes, s.cur = some (.sendp s.turn cmd pol bytes) →
        ∃ t tx, exec (.sendp cmd pol bytes) s = .next t ∧ t.tx = some tx ∧ tx.command = cmd))

/-- Derived (the first sentence of R148, and its last but one): the declared length is the unpadded bit length, whatever
the policy and the word width. -/
def Obligations.DeclaredLengthIsUnpadded : Prop :=
  ∀ (s : State) (cmd : Byte) (pol : AlignPolicy) (bytes : List Byte),
    s.fatal = false → reqAt s.turn s = .active → s.seq = .build → s.cur = some (.sendp s.turn cmd pol bytes) →
    ∃ t tx, exec (.sendp cmd pol bytes) s = .next t ∧ t.tx = some tx ∧ tx.payloadBitLength = 8 * bytes.length

/-- Derived (R147 corner cases, R150): a SENDP with an empty payload builds the transaction that a SEND of the same
command builds. -/
def Obligations.EmptyPayloadBuildsSendTransaction : Prop :=
  ∀ (p : Params) (c c' : CallerId) (cmd : Byte) (pol : AlignPolicy),
    buildTransaction p (.sendp c cmd pol []) = buildTransaction p (.send c' cmd) ∧
    transactionStream p (buildTransaction p (.sendp c cmd pol [])) = [cmd]

/-- Derived (R39, R157-R163, R164): what SEND and SENDP leave unchanged: the parameters, the responses taken, the plan,
the counter, the caller served, the slots of every other caller; a response is delivered only by COMPLETE; CL changes only in LINE; WBUF
only in BUILD of a SENDP with a payload and in COMPLETE; the device's record only in COMPLETE. -/
def Obligations.FramedRequestFrame : Prop :=
  ∀ (i : Instr) (s t : State), (∀ pol w b, i ≠ .pack pol w b) → exec i s = .next t →
    t.params = s.params ∧ t.taken = s.taken ∧ t.plan = s.plan ∧ t.draws = s.draws ∧ t.turn = s.turn ∧
    (∀ c, c ≠ s.turn → reqAt c t = reqAt c s ∧ rspAt c t = rspAt c s) ∧
    (s.seq ≠ .done → t.rsp = s.rsp ∧ t.res = s.res ∧ t.live = s.live ∧ t.device = s.device) ∧
    (s.seq ≠ .line → t.cl = s.cl) ∧
    (s.seq ≠ .build → s.seq ≠ .done → t.wbuf = s.wbuf ∧ t.tx = s.tx) ∧
    (∀ cmd, i = .send cmd → s.seq ≠ .done → t.wbuf = s.wbuf ∧ t.fatal = s.fatal) ∧
    (s.seq ≠ .idle → s.seq ≠ .done → t.lock = s.lock ∧ t.cur = s.cur)

/-! ### Whole calls (R142, R147) -/

/-- Derived (R142, "[derived: from rules R157 to R163]"): a whole SEND call from a pending request in an idle block, the
schedule serving its caller and the transport answering `res`: seven steps later the history has grown by the call's
four events, the response is the transport's result, the line is at COMMAND, and the block is idle again. The model's own
choice are the clauses on the schedule (`plan`, `draws`, `turn`: log 1, 2, 5) and on what the device received (`device`, by
R166 and R169: log 9). -/
def Obligations.SendWholeCall : Prop :=
  ∀ (s : State) (c : CallerId) (r : Request) (cmd : Byte) (res : TResult) (k : Nat) (rest : List Move),
    BlockInv s → s.fatal = false → s.seq = .idle → reqAt c s = .pending r → fetchRequest r = .instr (.send cmd) →
    resultAllowed s.params res = true →
    s.plan = [.serve c, .serve c, .serve c, .serve c, .serve c, .answer res k, .serve c] ++ rest →
    Host.Core.run Sys2Proof.core 7 s =
      .next { s with
        cl := .command
        req := s.req.set c .empty
        rsp := s.rsp.set c (some (framedResponse res))
        hist := s.hist ++ [.setLine c .command,
          .submit c { command := cmd, payload := none, payloadBitLength := 0 },
          .result c res, .respond c (framedResponse res)]
        device := s.device ++
          [receivedAfter s.params { command := cmd, payload := none, payloadBitLength := 0 } res k]
        plan := rest, draws := s.draws + 7, turn := c }

/-- Derived (R147, "[derived: from rules R157 to R163]"): a whole SENDP call, as SendWholeCall; with an empty payload
no buffer is handed over, otherwise the packed words with the unpadded bit length. The model's own choice are the clauses
on the schedule (`plan`, `draws`, `turn`: log 1, 2, 5) and on what the device received (`device`, by R166 and R169: log 9). -/
def Obligations.SendpWholeCall : Prop :=
  ∀ (s : State) (c : CallerId) (r : Request) (cmd : Byte) (pol : AlignPolicy) (bytes : List Byte) (res : TResult)
    (k : Nat) (rest : List Move) (tx : Transaction),
    BlockInv s → s.fatal = false → s.seq = .idle → reqAt c s = .pending r →
    fetchRequest r = .instr (.sendp cmd pol bytes) →
    bufferFits s.params bytes.length s.params.wordBytes = true → resultAllowed s.params res = true →
    tx = (if bytes = [] then { command := cmd, payload := none, payloadBitLength := 0 }
      else { command := cmd, payload := some (packWords bytes pol s.params.wordBytes),
             payloadBitLength := 8 * bytes.length }) →
    s.plan = [.serve c, .serve c, .serve c, .serve c, .serve c, .answer res k, .serve c] ++ rest →
    Host.Core.run Sys2Proof.core 7 s =
      .next { s with
        cl := .command
        req := s.req.set c .empty
        rsp := s.rsp.set c (some (framedResponse res))
        hist := s.hist ++ [.setLine c .command, .submit c tx, .result c res, .respond c (framedResponse res)]
        device := s.device ++ [receivedAfter s.params tx res k]
        plan := rest, draws := s.draws + 7, turn := c }

/-! ### What the device receives (41_framer.md section 3) -/

/-- Derived (R167, "[derived: from rule R166 and 40_packer.md rule R128]"): under a correct pairing the device receives
the command byte and the payload exactly. -/
def Obligations.CorrectPairingDeliversPayload : Prop :=
  ∀ (p : Params) (c : CallerId) (cmd : Byte) (pol : AlignPolicy) (bytes : List Byte),
    correctPairing pol p.dir = true →
    transactionStream p (buildTransaction p (.sendp c cmd pol bytes)) = cmd :: bytes

/-- Derived (R168): the window under the two mismatched pairings, and that every pairing delivers the payload when the
width divides the length. -/
def Obligations.MismatchedPairingDeliversPad : Prop :=
  ∀ (bytes : List Byte) (w : Nat), 1 ≤ w →
    window .frontForward w (packWords bytes .rightAlign w) bytes.length =
      (zeros (padCount bytes.length w) ++ bytes).take bytes.length ∧
    window .endBackward w (packWords bytes .leftAlign w) bytes.length =
      (bytes ++ zeros (padCount bytes.length w)).drop (padCount bytes.length w) ∧
    (bytes.length % w = 0 → ∀ pol dir, window dir w (packWords bytes pol w) bytes.length = bytes)

/-! ### Callers (R27) -/

/-- Derived (R27, R71, R199, R228; that the state stays where the step is not enabled is the model's choice, log 7, which is
unsafe as R230 says of a second request): the issue step is enabled exactly when both slots of the caller are empty, in a
halted block too; it captures the request whole. Taking a response empties the response slot, and the observation of the
run keeps the response (log 16). -/
def Obligations.IssueAndTakeSteps : Prop :=
  ∀ (c : CallerId) (s : State), c < s.params.nCallers →
    (∀ r, r.wellFormed = true → takeMove (.issue c r) s =
      .next (if reqAt c s = .empty ∧ rspAt c s = none then
        { s with req := s.req.set c (.pending r), hist := s.hist ++ [.issue c r] } else s)) ∧
    (∀ r, rspAt c s = some r →
      takeMove (.take c) s = .next { s with rsp := s.rsp.set c none, taken := s.taken ++ [(c, r)] }) ∧
    (rspAt c s = none → takeMove (.take c) s = .next s)

/-! ### Reset (70_reset_and_hazards.md section 1) -/

/-- Derived (R210; that what the device received of an abandoned transaction, R212, leaves `live` and joins the record in
`device` is the model's choice, log 9, and that the responses taken out stay is the model's deduction, of which R210 says nothing,
log 16): the reset step from every state and for every draw of `CL`, `FATAL = 1` included. -/
def Obligations.ResetStepResetsBlock : Prop :=
  ∀ (s : State) (level : Level) (k : Nat),
    takeMove (.reset level k) s =
      .next { s with
        seq := .idle, lock := .free, cur := none, tx := none, res := none, wbuf := [], fatal := false
        req := List.replicate s.params.nCallers .empty
        rsp := List.replicate s.params.nCallers none
        cl := level
        hist := s.hist ++ [.reset]
        live := none
        device := s.device ++ abandonedReceipt k s }

/-- Derived (R166, R169): what the device received after the ANSWER move: after `ERR(e)` a prefix of the stream for every
draw, and every prefix for some draw; after `OK` all of it. That `live` holds it is the model's choice (log 9). -/
def Obligations.ErrorAnswerDeliversSomePrefix : Prop :=
  ∀ (s : State) (d : Framed) (tx : Transaction), s.fatal = false → s.seq = .wait → s.cur = some d → s.tx = some tx →
    (∀ e, isErrorOf s.params.errType e = true →
      (∀ k, ∃ t bytes, takeMove (.answer (.err e) k) s = .next t ∧ t.live = some bytes ∧
        bytes <+: transactionStream s.params tx) ∧
      (∀ bytes, bytes <+: transactionStream s.params tx →
        ∃ k t, takeMove (.answer (.err e) k) s = .next t ∧ t.live = some bytes)) ∧
    (∀ k, ∃ t, takeMove (.answer .ok k) s = .next t ∧ t.live = some (transactionStream s.params tx))

/-- Derived (R212): a reset in WAIT or DONE lets the device have received any prefix of the abandoned transaction's
stream: each prefix is the record for some draw, and each draw gives a prefix. Before SUBMIT (IDLE, LINE, BUILD, SUBMIT),
and with no transaction, nothing is recorded. The record itself, and that in DONE the draw stands in place of what ANSWER
noted, are the model's choice (log 9). -/
def Obligations.AbandonedCallDeliversSomePrefix : Prop :=
  ∀ s : State,
    (∀ tx, s.tx = some tx → s.seq = .wait ∨ s.seq = .done →
      (∀ k, ∃ bytes, abandonedReceipt k s = [bytes] ∧ bytes <+: transactionStream s.params tx) ∧
      (∀ bytes, bytes <+: transactionStream s.params tx → ∃ k, abandonedReceipt k s = [bytes])) ∧
    (s.seq ≠ .wait → s.seq ≠ .done → ∀ k, abandonedReceipt k s = []) ∧
    (s.tx = none → ∀ k, abandonedReceipt k s = [])

/-- Derived (R211, R228; the history [Reset], the empty list of responses taken, the parameters and the level of `State.reset` are
the model's choice, log 14, 16, 4 and 3): the state after reset, for every instance and every draw of `CL`. -/
def Obligations.ResetStateHoldsResetValues : Prop :=
  (∀ (p : Params) (level : Level) (c : CallerId),
    (State.resetWith p level).seq = .idle ∧ (State.resetWith p level).lock = .free ∧
    (State.resetWith p level).wbuf = [] ∧ (State.resetWith p level).tx = none ∧
    (State.resetWith p level).fatal = false ∧ (State.resetWith p level).res = none ∧
    (State.resetWith p level).cur = none ∧ (State.resetWith p level).cl = level ∧
    observation (State.resetWith p level) = ([.reset], []) ∧ (State.resetWith p level).params = p ∧
    reqAt c (State.resetWith p level) = .empty ∧ rspAt c (State.resetWith p level) = none ∧
    goodEnd (State.resetWith p level) = true) ∧
  State.reset = State.resetWith Config.params Config.resetLevel

/-! ### Rules about every step -/

/-- Derived (R28, R184, R210): a step sets `FATAL` exactly when it is a resource exhaustion, and clears it exactly when it is
a reset; while it is 1 no agent of the block takes a step; it is 0 at reset. That such a step uses up its move and notes
the caller is the model's choice (log 1, 2, 5). -/
def Obligations.FatalIsSticky : Prop :=
  (∀ s t : State, step s = .next t →
    (s.fatal = true → (t.fatal = false ↔ ∃ level k, nextMove s = .reset level k)) ∧
    (s.fatal = false → (t.fatal = true ↔
      ∃ c r n w, nextMove s = .serve c ∧ reqAt c s = .pending r ∧ bufferFits s.params n w = false ∧
        ((∃ cmd pol bytes, fetchRequest r = .instr (.sendp cmd pol bytes) ∧ n = bytes.length ∧ w = s.params.wordBytes) ∨
         (∃ pol width bytes, fetchRequest r = .instr (.pack pol width bytes) ∧ n = bytes.length ∧
           w = widthOperand width)))) ∧
    (s.fatal = true → (∃ c, nextMove s = .serve c) ∨ (∃ res k, nextMove s = .answer res k) →
      { t with plan := s.plan, draws := s.draws, turn := s.turn } = s)) ∧
  (∀ p level, (State.resetWith p level).fatal = false)

/-- Derived (R23, R33, R146): the control line changes only in a LINE step, which drives COMMAND, and at a reset. -/
def Obligations.OnlyLineStepDrivesLine : Prop :=
  ∀ s t : State, step s = .next t →
    t.cl = s.cl ∨ (∃ level k, nextMove s = .reset level k ∧ t.cl = level) ∨
      (∃ d, s.cur = some d ∧ nextMove s = .serve (framedCaller d) ∧ s.seq = .line ∧ t.seq = .build ∧ t.cl = .command ∧
        t.hist = s.hist ++ [.setLine (framedCaller d) .command])

/-- Derived (R33, R146): no step puts the level DATA on the line: an event `SetLine(c, DATA)` is never emitted. -/
def Obligations.NoStepEmitsDataLevel : Prop :=
  ∀ s t : State, step s = .next t → (∀ c, Event.setLine c .data ∉ s.hist) → ∀ c, Event.setLine c .data ∉ t.hist

/-- Derived (R23, "No request reads `CL`"): two states that differ in `CL` only are left in states that differ in `CL` at
most, by every request. -/
def Obligations.NoRequestReadsControlLine : Prop :=
  ∀ (i : Instr) (s t : State) (level : Level), exec i s = .next t →
    ∃ t', exec i { s with cl := level } = .next t' ∧ { t' with cl := t.cl } = t

/-- Derived (R29, R9, R230 item 4): the history only grows, and no step changes the parameters. The responses taken (R228)
only grow, too: that a reset leaves them is the model's deduction (log 16). -/
def Obligations.HistoryGrowsAndParametersStay : Prop :=
  ∀ s t : State, step s = .next t → s.hist <+: t.hist ∧ s.taken <+: t.taken ∧ t.params = s.params

/-- Derived (R9, R30, "The block never inspects `e`"): a step commutes with every renaming of the error values, into any
error type that has the new names. So nothing depends on which type `TErr` is, or on which of its values the transport
gave. The moves are the plan's (log 1), and values are tokens (log 6). -/
def Obligations.NoStepReadsErrorValues : Prop :=
  ∀ (ty : ErrType) (f : TErr → TErr) (s : State) (m : Move) (rest : List Move), s.plan = m :: rest →
    (∀ e, isErrorOf s.params.errType e = true → isErrorOf ty (f e) = true) →
    (∀ res k, m = .answer res k → resultAllowed s.params res = true) →
    step (renameErrors ty f s) = renameOutcome ty f (step s)

/-- Derived (R95): a framed request is answered OK or TRANSPORT_ERROR, a PACK with words or INVALID_WIDTH. -/
def Obligations.ResponsesPerOperation : Prop :=
  ∀ (i : Instr) (s t : State) (rsp : Response), exec i s = .next t → rspAt s.turn t = some rsp →
    rspAt s.turn s = some rsp ∨
    (match i with
      | .send _ => rsp = .ok ∨ ∃ e, rsp = .transportError e
      | .sendp _ _ _ => rsp = .ok ∨ ∃ e, rsp = .transportError e
      | .pack _ _ _ => rsp = .invalidWidth ∨ ∃ count ws, rsp = .packed count ws)

/-! ### Invariants -/

/-- Derived (R27, R35, R39, R157-R163): every step keeps the invariant of the block. -/
def Obligations.StepKeepsInvariant : Prop :=
  ∀ s t : State, BlockInv s → step s = .next t → BlockInv t

/-- Derived (R39, R211): the state after reset meets the invariants, for every instance and every draw of `CL`, and so does
`State.reset`, whatever its free level is (log 3). -/
def Obligations.ResetMeetsInvariants : Prop :=
  (∀ (p : Params) (level : Level),
    BlockInv (State.resetWith p level) ∧ BusOrder (State.resetWith p level) ∧ OpenCalls (State.resetWith p level) ∧
    LineOk (State.resetWith p level) ∧ Observed (State.resetWith p level)) ∧
  BlockInv State.reset ∧ BusOrder State.reset ∧ OpenCalls State.reset ∧ LineOk State.reset ∧ Observed State.reset

/-- Derived (R51, "[derived: from 40_packer.md rule R111]"): no state of the invariant lets a step read outside the
payload, and none refuses: every step gives a next state. -/
def Obligations.InvariantStateNeverStops : Prop :=
  ∀ s : State, BlockInv s → ∃ t, step s = .next t

/-- Derived (R63, R64, R65, R153): the events of the bus follow the rules: every step keeps the history free of a
forbidden event. -/
def Obligations.StepKeepsBusOrder : Prop :=
  ∀ s t : State, BlockInv s → BusOrder s → step s = .next t → BusOrder t

/-- Derived (R27, R62): every step keeps the request slots in agreement with the history's issues and responses. -/
def Obligations.StepKeepsOpenCalls : Prop :=
  ∀ s t : State, BlockInv s → OpenCalls s → step s = .next t → OpenCalls t

/-- Derived (R228, R27, R30): every step keeps the observation sound: each response that waits or was taken out is in the
history as delivered to that caller, and each error value is one of the instance's `TErr`. That a
reset leaves the responses taken is the model's deduction (log 16). -/
def Obligations.StepKeepsObservation : Prop :=
  ∀ s t : State, Observed s → step s = .next t → Observed t

/-- Derived (R39 item 5): every step keeps the line at COMMAND after the first `SetLine` since the last `Reset`. -/
def Obligations.StepKeepsLineAtCommand : Prop :=
  ∀ s t : State, LineOk s → step s = .next t → LineOk t

/-- Derived (R39, "[derived: from rules R22 to R35 and 41_framer.md rules R157 to R163]", R35): its five items and R35's
agreement of `CUR` and `LOCK` hold in every state that meets the invariants. -/
def Obligations.InvariantGivesListedItems : Prop :=
  ∀ s : State, BlockInv s → LineOk s →
    (s.lock = .free ↔ s.seq = .idle ∧ s.cur = none) ∧
    (s.seq = .idle ∨ s.seq = .line ∨ s.seq = .build → s.tx = none) ∧
    (s.seq ≠ .done → s.res = none) ∧
    (¬ ((s.seq = .submit ∨ s.seq = .wait ∨ s.seq = .done) ∧ ∃ c cmd pol bytes, s.cur = some (.sendp c cmd pol bytes)) →
      s.wbuf = []) ∧
    (lineKnown s.hist = true → s.cl = .command) ∧
    (∀ c, s.lock = .held c ↔ ∃ d, s.cur = some d ∧ framedCaller d = c)

/-- Derived (R165): after COMPLETE the Framer is as it was before GRANT, but for `CL`. -/
def Obligations.CompleteLeavesFramerStateless : Prop :=
  ∀ (s t : State) (d : Framed), BlockInv s → s.fatal = false → s.turn = framedCaller d → s.cur = some d → s.seq = .done →
    exec (framedInstr d) s = .next t →
    t.seq = .idle ∧ t.lock = .free ∧ t.cur = none ∧ t.tx = none ∧ t.res = none ∧ t.wbuf = [] ∧
    t.cl = s.cl ∧ reqAt (framedCaller d) t = .empty
end

