-- ==== Sys2Proof/Laws/Packer.lean ====
section
/-! SUPPORT. The parts of `pack`: counts and pads, big-endian values, lanes, groups, images. -/

namespace Sys2Proof.Machine

/-! ### Counts (R114, R115) -/

theorem le_wordCount_mul {n w : Nat} (hw : 1 ≤ w) : n ≤ wordCount n w * w := by
  have h := Nat.div_add_mod (n + (w - 1)) w
  have hm := Nat.mod_lt (n + (w - 1)) (show w > 0 by omega)
  rw [Nat.mul_comm] at h
  simp only [wordCount, ceilDiv]
  omega

theorem wordCount_mul_lt {n w : Nat} (hw : 1 ≤ w) : wordCount n w * w < n + w := by
  have h := Nat.div_mul_le_self (n + (w - 1)) w
  simp only [wordCount, ceilDiv]
  omega

theorem wordCount_mul_eq {n w : Nat} (hw : 1 ≤ w) : wordCount n w * w = n + padCount n w := by
  have := le_wordCount_mul (n := n) hw
  simp only [padCount]
  omega

theorem padCount_lt {n w : Nat} (hw : 1 ≤ w) : padCount n w < w := by
  have := wordCount_mul_lt (n := n) hw
  simp only [padCount]
  omega

@[simp] theorem wordCount_zero {w : Nat} (hw : 1 ≤ w) : wordCount 0 w = 0 := by
  simp only [wordCount, ceilDiv, Nat.zero_add]
  exact Nat.div_eq_of_lt (by omega)

@[simp] theorem zeros_length (k : Nat) : (zeros k).length = k := List.length_replicate

/-- The padded sequence fills its words exactly (R115). -/
theorem paddedBytes_length (bytes : List Byte) (pol : AlignPolicy) {w : Nat} (hw : 1 ≤ w) :
    (paddedBytes bytes pol w).length = wordCount bytes.length w * w := by
  rw [wordCount_mul_eq hw]
  cases pol <;> simp [paddedBytes, Nat.add_comm]

/-! ### Big-endian values (R127) -/

theorem beValue_append (a b : List Byte) : beValue (a ++ b) = beValue a * 2 ^ (8 * b.length) + beValue b := by
  induction a with
  | nil => simp [beValue]
  | cons x a ih =>
    simp only [List.cons_append, beValue, ih, List.length_append, Nat.mul_add, Nat.pow_add]
    ring

theorem beValue_lt (l : List Byte) : beValue l < 2 ^ (8 * l.length) := by
  induction l with
  | nil => simp [beValue]
  | cons x l ih =>
    have hx : x.toNat + 1 ≤ 2 ^ 8 := x.isLt
    have hm := Nat.mul_le_mul_right (2 ^ (8 * l.length)) hx
    simp only [beValue, List.length_cons, Nat.mul_add, Nat.pow_add, Nat.mul_one]
    rw [Nat.add_mul, Nat.one_mul, Nat.mul_comm (2 ^ 8)] at hm
    omega

@[simp] theorem beValue_zeros (k : Nat) : beValue (zeros k) = 0 := by
  induction k with
  | zero => rfl
  | succ k ih => simpa [zeros, List.replicate_succ, beValue] using ih

/-! ### Lanes (R12, R116) -/

/-- Lane `k` of the word whose lanes are `l` is byte `k` of `l`. -/
theorem lane_beValue (l : List Byte) (k : Nat) (h : k < l.length) : lane l.length k (beValue l) = l[k] := by
  have hs : l = l.take k ++ l[k] :: l.drop (k + 1) := by simp
  have hlen : (l.drop (k + 1)).length = l.length - 1 - k := by simp; omega
  have hv : beValue l = (beValue (l.take k) * 2 ^ 8 + l[k].toNat) * 2 ^ (8 * (l.length - 1 - k))
      + beValue (l.drop (k + 1)) := by
    conv => lhs; rw [hs, beValue_append]
    simp only [beValue, List.length_cons, hlen, Nat.mul_add, Nat.pow_add, Nat.mul_one]
    ring
  have hlt := beValue_lt (l.drop (k + 1))
  rw [hlen] at hlt
  apply BitVec.eq_of_toNat_eq
  simp only [lane, BitVec.toNat_ofNat, hv, Nat.mul_comm (l.length - 1 - k) 8]
  rw [Nat.add_comm, Nat.add_mul_div_right _ _ (by positivity), Nat.div_eq_of_lt hlt, Nat.zero_add]
  have := l[k].isLt
  omega

/-- The bytes of the word whose lanes are `l` are `l`. -/
theorem wordBytes_beValue (l : List Byte) : wordBytes l.length (beValue l) = l := by
  apply List.ext_getElem
  · simp [wordBytes]
  · intro k h1 h2
    simp [wordBytes, lane_beValue l k h2]

/-! ### Groups (R57, R111) -/

@[simp] theorem groupWords_length (w c : Nat) (l : List Byte) : (groupWords w c l).length = c := by
  induction c generalizing l with
  | zero => rfl
  | succ c ih => simp [groupWords, ih]

/-- Each group is a word of the width (R111). -/
theorem groupWords_lt (w c : Nat) (l : List Byte) (v : Word) (h : v ∈ groupWords w c l) : v < 2 ^ (8 * w) := by
  induction c generalizing l with
  | zero => simp [groupWords] at h
  | succ c ih =>
    rcases List.mem_cons.mp h with rfl | h
    · refine Nat.lt_of_lt_of_le (beValue_lt _) (Nat.pow_le_pow_right (by omega) ?_)
      simp only [List.length_take]
      omega
    · exact ih _ h

/-- The image of the words is the byte sequence they were made of (R56). -/
theorem image_groupWords (w c : Nat) (l : List Byte) (h : l.length = c * w) : image w (groupWords w c l) = l := by
  induction c generalizing l with
  | zero =>
    have : l = [] := List.eq_nil_of_length_eq_zero (by omega)
    simp [this, groupWords, image]
  | succ c ih =>
    rw [Nat.add_mul, Nat.one_mul] at h
    have ht : (l.take w).length = w := by simp; omega
    have hw := wordBytes_beValue (l.take w)
    rw [ht] at hw
    have hd := ih (l.drop w) (by simp; omega)
    simp only [image] at hd
    simp [groupWords, image, hw, hd]

/-- The words read as one number give the number of the byte sequence (R127). -/
theorem wordsValue_groupWords (w c : Nat) (l : List Byte) (h : l.length = c * w) :
    wordsValue w (groupWords w c l) = beValue l := by
  induction c generalizing l with
  | zero => simp_all [groupWords, wordsValue, beValue]
  | succ c ih =>
    rw [Nat.add_mul, Nat.one_mul] at h
    have hd : (l.drop w).length = c * w := by simp; omega
    conv => rhs; rw [← List.take_append_drop w l, beValue_append, hd]
    simp only [groupWords, wordsValue, groupWords_length, ih _ hd]
    ring_nf

/-- Word `j` is the value of bytes `j*w` to `j*w+w-1` (R111). -/
theorem groupWords_getD (w c j : Nat) (l : List Byte) (h : j < c) :
    (groupWords w c l).getD j 0 = beValue ((l.drop (j * w)).take w) := by
  induction c generalizing l j with
  | zero => omega
  | succ c ih =>
    cases j with
    | zero => simp [groupWords]
    | succ j =>
      have := ih j (l.drop w) (by omega)
      simpa [groupWords, Nat.add_mul, Nat.add_comm] using this

end Sys2Proof.Machine
end

