-- ==== Sys2Proof/Laws/State.lean ====
section
/-! SUPPORT. Each field after each basic update of the state, so that no proof unfolds a record update, and the slots of
the callers after an update. -/

namespace Sys2Proof.Machine

/-! ### setReq -/

@[simp] theorem setReq_params (c : CallerId) (x : ReqSlot) (s : State) : (setReq c x s).params = s.params := rfl
@[simp] theorem setReq_seq (c : CallerId) (x : ReqSlot) (s : State) : (setReq c x s).seq = s.seq := rfl
@[simp] theorem setReq_cl (c : CallerId) (x : ReqSlot) (s : State) : (setReq c x s).cl = s.cl := rfl
@[simp] theorem setReq_lock (c : CallerId) (x : ReqSlot) (s : State) : (setReq c x s).lock = s.lock := rfl
@[simp] theorem setReq_wbuf (c : CallerId) (x : ReqSlot) (s : State) : (setReq c x s).wbuf = s.wbuf := rfl
@[simp] theorem setReq_tx (c : CallerId) (x : ReqSlot) (s : State) : (setReq c x s).tx = s.tx := rfl
@[simp] theorem setReq_req (c : CallerId) (x : ReqSlot) (s : State) : (setReq c x s).req = s.req.set c x := rfl
@[simp] theorem setReq_rsp (c : CallerId) (x : ReqSlot) (s : State) : (setReq c x s).rsp = s.rsp := rfl
@[simp] theorem setReq_fatal (c : CallerId) (x : ReqSlot) (s : State) : (setReq c x s).fatal = s.fatal := rfl
@[simp] theorem setReq_hist (c : CallerId) (x : ReqSlot) (s : State) : (setReq c x s).hist = s.hist := rfl
@[simp] theorem setReq_res (c : CallerId) (x : ReqSlot) (s : State) : (setReq c x s).res = s.res := rfl
@[simp] theorem setReq_cur (c : CallerId) (x : ReqSlot) (s : State) : (setReq c x s).cur = s.cur := rfl
@[simp] theorem setReq_taken (c : CallerId) (x : ReqSlot) (s : State) : (setReq c x s).taken = s.taken := rfl
@[simp] theorem setReq_live (c : CallerId) (x : ReqSlot) (s : State) : (setReq c x s).live = s.live := rfl
@[simp] theorem setReq_device (c : CallerId) (x : ReqSlot) (s : State) : (setReq c x s).device = s.device := rfl
@[simp] theorem setReq_plan (c : CallerId) (x : ReqSlot) (s : State) : (setReq c x s).plan = s.plan := rfl
@[simp] theorem setReq_draws (c : CallerId) (x : ReqSlot) (s : State) : (setReq c x s).draws = s.draws := rfl
@[simp] theorem setReq_turn (c : CallerId) (x : ReqSlot) (s : State) : (setReq c x s).turn = s.turn := rfl

/-! ### setRsp -/

@[simp] theorem setRsp_params (c : CallerId) (x : Option Response) (s : State) : (setRsp c x s).params = s.params := rfl
@[simp] theorem setRsp_seq (c : CallerId) (x : Option Response) (s : State) : (setRsp c x s).seq = s.seq := rfl
@[simp] theorem setRsp_cl (c : CallerId) (x : Option Response) (s : State) : (setRsp c x s).cl = s.cl := rfl
@[simp] theorem setRsp_lock (c : CallerId) (x : Option Response) (s : State) : (setRsp c x s).lock = s.lock := rfl
@[simp] theorem setRsp_wbuf (c : CallerId) (x : Option Response) (s : State) : (setRsp c x s).wbuf = s.wbuf := rfl
@[simp] theorem setRsp_tx (c : CallerId) (x : Option Response) (s : State) : (setRsp c x s).tx = s.tx := rfl
@[simp] theorem setRsp_req (c : CallerId) (x : Option Response) (s : State) : (setRsp c x s).req = s.req := rfl
@[simp] theorem setRsp_rsp (c : CallerId) (x : Option Response) (s : State) : (setRsp c x s).rsp = s.rsp.set c x := rfl
@[simp] theorem setRsp_fatal (c : CallerId) (x : Option Response) (s : State) : (setRsp c x s).fatal = s.fatal := rfl
@[simp] theorem setRsp_hist (c : CallerId) (x : Option Response) (s : State) : (setRsp c x s).hist = s.hist := rfl
@[simp] theorem setRsp_res (c : CallerId) (x : Option Response) (s : State) : (setRsp c x s).res = s.res := rfl
@[simp] theorem setRsp_cur (c : CallerId) (x : Option Response) (s : State) : (setRsp c x s).cur = s.cur := rfl
@[simp] theorem setRsp_taken (c : CallerId) (x : Option Response) (s : State) : (setRsp c x s).taken = s.taken := rfl
@[simp] theorem setRsp_live (c : CallerId) (x : Option Response) (s : State) : (setRsp c x s).live = s.live := rfl
@[simp] theorem setRsp_device (c : CallerId) (x : Option Response) (s : State) : (setRsp c x s).device = s.device := rfl
@[simp] theorem setRsp_plan (c : CallerId) (x : Option Response) (s : State) : (setRsp c x s).plan = s.plan := rfl
@[simp] theorem setRsp_draws (c : CallerId) (x : Option Response) (s : State) : (setRsp c x s).draws = s.draws := rfl
@[simp] theorem setRsp_turn (c : CallerId) (x : Option Response) (s : State) : (setRsp c x s).turn = s.turn := rfl

/-! ### emit -/

@[simp] theorem emit_params (e : Event) (s : State) : (emit e s).params = s.params := rfl
@[simp] theorem emit_seq (e : Event) (s : State) : (emit e s).seq = s.seq := rfl
@[simp] theorem emit_cl (e : Event) (s : State) : (emit e s).cl = s.cl := rfl
@[simp] theorem emit_lock (e : Event) (s : State) : (emit e s).lock = s.lock := rfl
@[simp] theorem emit_wbuf (e : Event) (s : State) : (emit e s).wbuf = s.wbuf := rfl
@[simp] theorem emit_tx (e : Event) (s : State) : (emit e s).tx = s.tx := rfl
@[simp] theorem emit_req (e : Event) (s : State) : (emit e s).req = s.req := rfl
@[simp] theorem emit_rsp (e : Event) (s : State) : (emit e s).rsp = s.rsp := rfl
@[simp] theorem emit_fatal (e : Event) (s : State) : (emit e s).fatal = s.fatal := rfl
@[simp] theorem emit_hist (e : Event) (s : State) : (emit e s).hist = s.hist ++ [e] := rfl
@[simp] theorem emit_res (e : Event) (s : State) : (emit e s).res = s.res := rfl
@[simp] theorem emit_cur (e : Event) (s : State) : (emit e s).cur = s.cur := rfl
@[simp] theorem emit_taken (e : Event) (s : State) : (emit e s).taken = s.taken := rfl
@[simp] theorem emit_live (e : Event) (s : State) : (emit e s).live = s.live := rfl
@[simp] theorem emit_device (e : Event) (s : State) : (emit e s).device = s.device := rfl
@[simp] theorem emit_plan (e : Event) (s : State) : (emit e s).plan = s.plan := rfl
@[simp] theorem emit_draws (e : Event) (s : State) : (emit e s).draws = s.draws := rfl
@[simp] theorem emit_turn (e : Event) (s : State) : (emit e s).turn = s.turn := rfl

/-! ### respond -/

@[simp] theorem respond_params (c : CallerId) (r : Response) (s : State) : (respond c r s).params = s.params := rfl
@[simp] theorem respond_seq (c : CallerId) (r : Response) (s : State) : (respond c r s).seq = s.seq := rfl
@[simp] theorem respond_cl (c : CallerId) (r : Response) (s : State) : (respond c r s).cl = s.cl := rfl
@[simp] theorem respond_lock (c : CallerId) (r : Response) (s : State) : (respond c r s).lock = s.lock := rfl
@[simp] theorem respond_wbuf (c : CallerId) (r : Response) (s : State) : (respond c r s).wbuf = s.wbuf := rfl
@[simp] theorem respond_tx (c : CallerId) (r : Response) (s : State) : (respond c r s).tx = s.tx := rfl
@[simp] theorem respond_req (c : CallerId) (r : Response) (s : State) : (respond c r s).req = s.req.set c .empty := rfl
@[simp] theorem respond_rsp (c : CallerId) (r : Response) (s : State) : (respond c r s).rsp = s.rsp.set c (some r) := rfl
@[simp] theorem respond_fatal (c : CallerId) (r : Response) (s : State) : (respond c r s).fatal = s.fatal := rfl
@[simp] theorem respond_hist (c : CallerId) (r : Response) (s : State) : (respond c r s).hist = s.hist ++ [.respond c r] := rfl
@[simp] theorem respond_res (c : CallerId) (r : Response) (s : State) : (respond c r s).res = s.res := rfl
@[simp] theorem respond_cur (c : CallerId) (r : Response) (s : State) : (respond c r s).cur = s.cur := rfl
@[simp] theorem respond_taken (c : CallerId) (r : Response) (s : State) : (respond c r s).taken = s.taken := rfl
@[simp] theorem respond_live (c : CallerId) (r : Response) (s : State) : (respond c r s).live = s.live := rfl
@[simp] theorem respond_device (c : CallerId) (r : Response) (s : State) : (respond c r s).device = s.device := rfl
@[simp] theorem respond_plan (c : CallerId) (r : Response) (s : State) : (respond c r s).plan = s.plan := rfl
@[simp] theorem respond_draws (c : CallerId) (r : Response) (s : State) : (respond c r s).draws = s.draws := rfl
@[simp] theorem respond_turn (c : CallerId) (r : Response) (s : State) : (respond c r s).turn = s.turn := rfl

/-! ### exhaust -/

@[simp] theorem exhaust_params (c : CallerId) (s : State) : (exhaust c s).params = s.params := rfl
@[simp] theorem exhaust_seq (c : CallerId) (s : State) : (exhaust c s).seq = s.seq := rfl
@[simp] theorem exhaust_cl (c : CallerId) (s : State) : (exhaust c s).cl = s.cl := rfl
@[simp] theorem exhaust_lock (c : CallerId) (s : State) : (exhaust c s).lock = s.lock := rfl
@[simp] theorem exhaust_wbuf (c : CallerId) (s : State) : (exhaust c s).wbuf = s.wbuf := rfl
@[simp] theorem exhaust_tx (c : CallerId) (s : State) : (exhaust c s).tx = s.tx := rfl
@[simp] theorem exhaust_req (c : CallerId) (s : State) : (exhaust c s).req = s.req := rfl
@[simp] theorem exhaust_rsp (c : CallerId) (s : State) : (exhaust c s).rsp = s.rsp := rfl
@[simp] theorem exhaust_fatal (c : CallerId) (s : State) : (exhaust c s).fatal = true := rfl
@[simp] theorem exhaust_hist (c : CallerId) (s : State) : (exhaust c s).hist = s.hist ++ [.fatal c] := rfl
@[simp] theorem exhaust_res (c : CallerId) (s : State) : (exhaust c s).res = s.res := rfl
@[simp] theorem exhaust_cur (c : CallerId) (s : State) : (exhaust c s).cur = s.cur := rfl
@[simp] theorem exhaust_taken (c : CallerId) (s : State) : (exhaust c s).taken = s.taken := rfl
@[simp] theorem exhaust_live (c : CallerId) (s : State) : (exhaust c s).live = s.live := rfl
@[simp] theorem exhaust_device (c : CallerId) (s : State) : (exhaust c s).device = s.device := rfl
@[simp] theorem exhaust_plan (c : CallerId) (s : State) : (exhaust c s).plan = s.plan := rfl
@[simp] theorem exhaust_draws (c : CallerId) (s : State) : (exhaust c s).draws = s.draws := rfl
@[simp] theorem exhaust_turn (c : CallerId) (s : State) : (exhaust c s).turn = s.turn := rfl

/-! ### place -/

@[simp] theorem place_params (c : CallerId) (r : Request) (s : State) : (place c r s).params = s.params := rfl
@[simp] theorem place_seq (c : CallerId) (r : Request) (s : State) : (place c r s).seq = s.seq := rfl
@[simp] theorem place_cl (c : CallerId) (r : Request) (s : State) : (place c r s).cl = s.cl := rfl
@[simp] theorem place_lock (c : CallerId) (r : Request) (s : State) : (place c r s).lock = s.lock := rfl
@[simp] theorem place_wbuf (c : CallerId) (r : Request) (s : State) : (place c r s).wbuf = s.wbuf := rfl
@[simp] theorem place_tx (c : CallerId) (r : Request) (s : State) : (place c r s).tx = s.tx := rfl
@[simp] theorem place_req (c : CallerId) (r : Request) (s : State) : (place c r s).req = s.req.set c (.pending r) := rfl
@[simp] theorem place_rsp (c : CallerId) (r : Request) (s : State) : (place c r s).rsp = s.rsp := rfl
@[simp] theorem place_fatal (c : CallerId) (r : Request) (s : State) : (place c r s).fatal = s.fatal := rfl
@[simp] theorem place_hist (c : CallerId) (r : Request) (s : State) : (place c r s).hist = s.hist ++ [.issue c r] := rfl
@[simp] theorem place_res (c : CallerId) (r : Request) (s : State) : (place c r s).res = s.res := rfl
@[simp] theorem place_cur (c : CallerId) (r : Request) (s : State) : (place c r s).cur = s.cur := rfl
@[simp] theorem place_taken (c : CallerId) (r : Request) (s : State) : (place c r s).taken = s.taken := rfl
@[simp] theorem place_live (c : CallerId) (r : Request) (s : State) : (place c r s).live = s.live := rfl
@[simp] theorem place_device (c : CallerId) (r : Request) (s : State) : (place c r s).device = s.device := rfl
@[simp] theorem place_plan (c : CallerId) (r : Request) (s : State) : (place c r s).plan = s.plan := rfl
@[simp] theorem place_draws (c : CallerId) (r : Request) (s : State) : (place c r s).draws = s.draws := rfl
@[simp] theorem place_turn (c : CallerId) (r : Request) (s : State) : (place c r s).turn = s.turn := rfl

/-! ### takeStep -/

@[simp] theorem takeStep_params (c : CallerId) (s : State) : (takeStep c s).params = s.params := by
  unfold takeStep; split <;> rfl
@[simp] theorem takeStep_seq (c : CallerId) (s : State) : (takeStep c s).seq = s.seq := by
  unfold takeStep; split <;> rfl
@[simp] theorem takeStep_cl (c : CallerId) (s : State) : (takeStep c s).cl = s.cl := by
  unfold takeStep; split <;> rfl
@[simp] theorem takeStep_lock (c : CallerId) (s : State) : (takeStep c s).lock = s.lock := by
  unfold takeStep; split <;> rfl
@[simp] theorem takeStep_wbuf (c : CallerId) (s : State) : (takeStep c s).wbuf = s.wbuf := by
  unfold takeStep; split <;> rfl
@[simp] theorem takeStep_tx (c : CallerId) (s : State) : (takeStep c s).tx = s.tx := by
  unfold takeStep; split <;> rfl
@[simp] theorem takeStep_req (c : CallerId) (s : State) : (takeStep c s).req = s.req := by
  unfold takeStep; split <;> rfl
@[simp] theorem takeStep_fatal (c : CallerId) (s : State) : (takeStep c s).fatal = s.fatal := by
  unfold takeStep; split <;> rfl
@[simp] theorem takeStep_hist (c : CallerId) (s : State) : (takeStep c s).hist = s.hist := by
  unfold takeStep; split <;> rfl
@[simp] theorem takeStep_res (c : CallerId) (s : State) : (takeStep c s).res = s.res := by
  unfold takeStep; split <;> rfl
@[simp] theorem takeStep_cur (c : CallerId) (s : State) : (takeStep c s).cur = s.cur := by
  unfold takeStep; split <;> rfl
@[simp] theorem takeStep_live (c : CallerId) (s : State) : (takeStep c s).live = s.live := by
  unfold takeStep; split <;> rfl
@[simp] theorem takeStep_device (c : CallerId) (s : State) : (takeStep c s).device = s.device := by
  unfold takeStep; split <;> rfl
@[simp] theorem takeStep_plan (c : CallerId) (s : State) : (takeStep c s).plan = s.plan := by
  unfold takeStep; split <;> rfl
@[simp] theorem takeStep_draws (c : CallerId) (s : State) : (takeStep c s).draws = s.draws := by
  unfold takeStep; split <;> rfl
@[simp] theorem takeStep_turn (c : CallerId) (s : State) : (takeStep c s).turn = s.turn := by
  unfold takeStep; split <;> rfl
@[simp] theorem takeStep_rsp (c : CallerId) (s : State) : (takeStep c s).rsp = s.rsp.set c none := by
  unfold takeStep
  split
  next => rfl
  next h =>
    refine (List.ext_getElem? fun j => ?_)
    simp only [rspAt, List.getD_eq_getElem?_getD] at h
    rw [List.getElem?_set]
    split
    next e =>
      subst e
      cases hj : s.rsp[c]? with
      | none => simp [List.getElem?_eq_none_iff.mp hj]
      | some x =>
        have hl : c < s.rsp.length := (List.getElem?_eq_some_iff.mp hj).1
        simp_all
    next => rfl
@[simp] theorem takeStep_taken (c : CallerId) (s : State) :
    (takeStep c s).taken = s.taken ++ (rspAt c s).toList.map fun r => (c, r) := by
  unfold takeStep
  split <;> simp_all

/-! ### advance -/

@[simp] theorem advance_params (s : State) : (advance s).params = s.params := rfl
@[simp] theorem advance_seq (s : State) : (advance s).seq = s.seq := rfl
@[simp] theorem advance_cl (s : State) : (advance s).cl = s.cl := rfl
@[simp] theorem advance_lock (s : State) : (advance s).lock = s.lock := rfl
@[simp] theorem advance_wbuf (s : State) : (advance s).wbuf = s.wbuf := rfl
@[simp] theorem advance_tx (s : State) : (advance s).tx = s.tx := rfl
@[simp] theorem advance_req (s : State) : (advance s).req = s.req := rfl
@[simp] theorem advance_rsp (s : State) : (advance s).rsp = s.rsp := rfl
@[simp] theorem advance_fatal (s : State) : (advance s).fatal = s.fatal := rfl
@[simp] theorem advance_hist (s : State) : (advance s).hist = s.hist := rfl
@[simp] theorem advance_res (s : State) : (advance s).res = s.res := rfl
@[simp] theorem advance_cur (s : State) : (advance s).cur = s.cur := rfl
@[simp] theorem advance_taken (s : State) : (advance s).taken = s.taken := rfl
@[simp] theorem advance_live (s : State) : (advance s).live = s.live := rfl
@[simp] theorem advance_device (s : State) : (advance s).device = s.device := rfl
@[simp] theorem advance_plan (s : State) : (advance s).plan = s.plan.tail := rfl
@[simp] theorem advance_draws (s : State) : (advance s).draws = s.draws + 1 := rfl
@[simp] theorem advance_turn (s : State) : (advance s).turn = s.turn := rfl

/-! ### Slots -/

@[simp] theorem reqAt_emit (c : CallerId) (e : Event) (s : State) : reqAt c (emit e s) = reqAt c s := rfl
@[simp] theorem rspAt_emit (c : CallerId) (e : Event) (s : State) : rspAt c (emit e s) = rspAt c s := rfl
@[simp] theorem rspAt_setReq (c c' : CallerId) (x : ReqSlot) (s : State) : rspAt c (setReq c' x s) = rspAt c s := rfl
@[simp] theorem reqAt_setRsp (c c' : CallerId) (x : Option Response) (s : State) :
    reqAt c (setRsp c' x s) = reqAt c s := rfl
@[simp] theorem reqAt_takeStep (c c' : CallerId) (s : State) : reqAt c (takeStep c' s) = reqAt c s := by
  simp [reqAt]
@[simp] theorem reqAt_advance (c : CallerId) (s : State) : reqAt c (advance s) = reqAt c s := rfl
@[simp] theorem rspAt_advance (c : CallerId) (s : State) : rspAt c (advance s) = rspAt c s := rfl

/-- A list slot after a write, at the place written and elsewhere. -/
theorem getD_set {α : Type} (l : List α) (c c' : Nat) (x d : α) :
    (l.set c' x).getD c d = if c = c' ∧ c < l.length then x else l.getD c d := by
  simp only [List.getD_eq_getElem?_getD, List.getElem?_set]
  by_cases h : c' = c
  · subst h
    by_cases hl : c' < l.length
    · simp [hl]
    · simp [hl]
  · have h' : ¬ c = c' := fun e => h e.symm
    simp [h, h']

/-- `REQ[c]` after `REQ[c'] <- x`. -/
theorem reqAt_setReq (c c' : CallerId) (x : ReqSlot) (s : State) :
    reqAt c (setReq c' x s) = if c = c' ∧ c < s.req.length then x else reqAt c s := getD_set _ _ _ _ _

/-- `RSP[c]` after `RSP[c'] <- x`. -/
theorem rspAt_setRsp (c c' : CallerId) (x : Option Response) (s : State) :
    rspAt c (setRsp c' x s) = if c = c' ∧ c < s.rsp.length then x else rspAt c s := getD_set _ _ _ _ _

/-- A slot that is not EMPTY belongs to a caller. -/
theorem lt_of_reqAt_ne_empty {c : CallerId} {s : State} (h : reqAt c s ≠ .empty) : c < s.req.length := by
  by_contra hc
  exact h (by simp [reqAt, List.getD_eq_getElem?_getD, List.getElem?_eq_none (Nat.le_of_not_lt hc)])

/-- All slots are EMPTY in a list of EMPTY slots. -/
theorem getD_replicate {α : Type} (n c : Nat) (d : α) : (List.replicate n d).getD c d = d := by
  by_cases h : c < n
  · simp [List.getD_eq_getElem?_getD, h]
  · simp [List.getD_eq_getElem?_getD, h]

@[simp] theorem reqAt_resetWith (c : CallerId) (p : Params) (level : Level) :
    reqAt c (State.resetWith p level) = .empty := getD_replicate _ _ _
@[simp] theorem rspAt_resetWith (c : CallerId) (p : Params) (level : Level) :
    rspAt c (State.resetWith p level) = none := getD_replicate _ _ _

end Sys2Proof.Machine
end

