-- ==== Sys2Proof/Laws/Ops.lean ====
section
/-! SUPPORT. Once for each shared operation: everything it can do. The relations list the effects with their guards; the
lemmas say that the operation's result is one of them. -/

namespace Sys2Proof.Machine

/-! ### The Framer (R156-R163) -/

@[simp] theorem writeBuffer_nil (buf : List Word) : writeBuffer [] buf = buf := rfl

/-- Words that are written replace the buffer. -/
theorem writeBuffer_of_ne_nil {ws : List Word} (h : ws ≠ []) (buf : List Word) : writeBuffer ws buf = ws := by
  cases ws with
  | nil => exact absurd rfl h
  | cons v rest => rfl

/-- An empty buffer takes the words. -/
@[simp] theorem writeBuffer_empty (ws : List Word) : writeBuffer ws [] = ws := by
  cases ws <;> rfl

/-- Everything a Framer step for `d` can do. -/
inductive FramerMove (d : Framed) (s : State) : State → Prop where
  | stay : FramerMove d s s
  | accept (r : Request) (hf : s.fatal = false) (hs : reqAt (framedCaller d) s = .pending r)
      (hfit : framedFits s.params d = true) : FramerMove d s (setReq (framedCaller d) (.waiting d) s)
  | exhaust (r : Request) (hf : s.fatal = false) (hs : reqAt (framedCaller d) s = .pending r)
      (hfit : framedFits s.params d = false) : FramerMove d s (exhaust (framedCaller d) s)
  | grant (d' : Framed) (hf : s.fatal = false) (hs : reqAt (framedCaller d) s = .waiting d') (hl : s.lock = .free)
      (hq : s.seq = .idle) :
      FramerMove d s { setReq (framedCaller d) .active s with
        lock := .held (framedCaller d), cur := some d, seq := .line }
  | line (hf : s.fatal = false) (hs : reqAt (framedCaller d) s = .active) (hc : s.cur = some d) (hq : s.seq = .line) :
      FramerMove d s (emit (.setLine (framedCaller d) .command) { s with cl := .command, seq := .build })
  | build (hf : s.fatal = false) (hs : reqAt (framedCaller d) s = .active) (hc : s.cur = some d)
      (hq : s.seq = .build) :
      FramerMove d s { s with
        wbuf := writeBuffer (buildWords s.params d) s.wbuf
        tx := some (buildTransaction s.params d), seq := .submit }
  | submit (tx : Transaction) (hf : s.fatal = false) (hs : reqAt (framedCaller d) s = .active) (hc : s.cur = some d)
      (hq : s.seq = .submit) (ht : s.tx = some tx) :
      FramerMove d s (emit (.submit (framedCaller d) tx) { s with seq := .wait })
  | complete (res : TResult) (hf : s.fatal = false) (hs : reqAt (framedCaller d) s = .active) (hc : s.cur = some d)
      (hq : s.seq = .done) (hr : s.res = some res) :
      FramerMove d s (respond (framedCaller d) (framedResponse res)
        { s with
          wbuf := [], tx := none, res := none, cur := none, lock := .free, seq := .idle
          device := s.device ++ s.live.toList, live := none })

theorem framerStep_move (d : Framed) (s : State) : FramerMove d s (framerStep d s) := by
  unfold framerStep
  split
  · exact .stay
  next hf =>
    have hf : s.fatal = false := by simpa using hf
    split
    next => exact .stay
    next r hs =>
      unfold acceptStep
      split
      next h => exact .accept r hf hs h
      next h => exact .exhaust r hf hs (by simpa using h)
    next d' hs =>
      unfold grantStep
      split
      next h => exact .grant d' hf hs h.1 h.2
      next => exact .stay
    next hs =>
      split
      next hc =>
        unfold activeStep
        split
        next => exact .stay
        next hq => exact .line hf hs hc hq
        next hq => exact .build hf hs hc hq
        next hq =>
          unfold submitStep
          split
          next tx ht => exact .submit tx hf hs hc hq ht
          next => exact .stay
        next => exact .stay
        next hq =>
          unfold completeStep
          split
          next res hr => exact .complete res hf hs hc hq hr
          next => exact .stay
      next => exact .stay

/-! ### The Packer (R122) -/

/-- Everything a PACK step can do. -/
inductive PackMove (c : CallerId) (pol : AlignPolicy) (w : Nat) (bytes : List Byte) (s : State) : State → Prop where
  | stay : PackMove c pol w bytes s s
  | invalid (r : Request) (hf : s.fatal = false) (hs : reqAt c s = .pending r) (hw : w = 0) :
      PackMove c pol w bytes s (respond c .invalidWidth s)
  | packed (r : Request) (hf : s.fatal = false) (hs : reqAt c s = .pending r) (hw : w ≠ 0)
      (hfit : bufferFits s.params bytes.length w = true) :
      PackMove c pol w bytes s
        (respond c (.packed (BitVec.ofNat 32 (wordCount bytes.length w)) (packWords bytes pol w)) s)
  | exhaust (r : Request) (hf : s.fatal = false) (hs : reqAt c s = .pending r) (hw : w ≠ 0)
      (hfit : bufferFits s.params bytes.length w = false) : PackMove c pol w bytes s (exhaust c s)

theorem packStep_move (c : CallerId) (pol : AlignPolicy) (w : Nat) (bytes : List Byte) (s : State) :
    PackMove c pol w bytes s (packStep c pol w bytes s) := by
  unfold packStep
  split
  · exact .stay
  next hf =>
    have hf : s.fatal = false := by simpa using hf
    split
    next => exact .stay
    next => exact .stay
    next => exact .stay
    next r hs =>
      unfold pack
      by_cases hw : w = 0
      · simpa [hw] using PackMove.invalid r hf hs hw
      · simp only [hw, if_false]
        split
        next h => exact .packed r hf hs hw h
        next h => exact .exhaust r hf hs hw (by simpa using h)

/-! ### Meanings -/

/-- The meaning of a framed request's instruction is the Framer's step for its caller. -/
theorem exec_framedInstr (d : Framed) (s : State) (h : framedCaller d = s.turn) :
    exec (framedInstr d) s = .next (framerStep d s) := by
  cases d <;> simp only [framedCaller] at h <;> subst h <;> rfl

/-- Every meaning is a Framer step or a PACK step for the caller served, and answers a next state. -/
theorem exec_cases (i : Instr) (s : State) :
    (∃ d, framedCaller d = s.turn ∧ framedInstr d = i ∧ exec i s = .next (framerStep d s)) ∨
    (∃ pol width bytes, i = .pack pol width bytes ∧
      exec i s = .next (packStep s.turn pol (widthOperand width) bytes s)) := by
  cases i with
  | send cmd => exact .inl ⟨.send s.turn cmd, rfl, rfl, rfl⟩
  | sendp cmd pol bytes => exact .inl ⟨.sendp s.turn cmd pol bytes, rfl, rfl, rfl⟩
  | pack pol width bytes => exact .inr ⟨pol, width, bytes, rfl, rfl⟩

/-! ### Serving a caller -/

/-- Where the instruction that is run comes from: the caller's slot. -/
inductive HeldBy (c : CallerId) (s : State) (i : Instr) : Prop where
  | pending (r : Request) (hs : reqAt c s = .pending r) (hi : fetchRequest r = .instr i)
  | waiting (d : Framed) (hs : reqAt c s = .waiting d) (hi : framedInstr d = i)
  | active (d : Framed) (hs : reqAt c s = .active) (hc : s.cur = some d) (hd : framedCaller d = c)
      (hi : framedInstr d = i)

/-- Everything serving caller `c` can do. -/
inductive ServeMove (c : CallerId) (s : State) : Host.Outcome State Fault Refusal → Prop where
  | stay : ServeMove c s (.next s)
  | reject (r : Request) (why : Illegal) (hf : s.fatal = false) (hs : reqAt c s = .pending r)
      (hd : fetchRequest r = .illegal why) : ServeMove c s (.next (respond c .illegalRequest s))
  | short (r : Request) (hf : s.fatal = false) (hs : reqAt c s = .pending r) (hd : fetchRequest r = .shortPayload) :
      ServeMove c s (.fault .payloadOutOfRange)
  | run (i : Instr) (hf : s.fatal = false) (hi : HeldBy c s i) : ServeMove c s (exec i s)

theorem serve_move (c : CallerId) (s : State) : ServeMove c s (serve c s) := by
  unfold serve
  split
  · exact .stay
  next hf =>
    have hf : s.fatal = false := by simpa using hf
    split
    next => exact .stay
    next r hs =>
      split
      next why hd => exact .reject r why hf hs hd
      next hd => exact .short r hf hs hd
      next i hd => exact .run i hf (.pending r hs hd)
    next d hs => exact .run _ hf (.waiting d hs rfl)
    next hs =>
      split
      next d hc =>
        split
        next hd => exact .run _ hf (.active d hs hc hd rfl)
        next => exact .stay
      next => exact .stay

/-! ### The other agents -/

/-- Everything an issue step can do (R27). -/
theorem issueStep_cases (c : CallerId) (r : Request) (s : State) :
    issueStep c r s = s ∨
    (c < s.params.nCallers ∧ reqAt c s = .empty ∧ rspAt c s = none ∧ r.wellFormed = true ∧
      issueStep c r s = place c r s) := by
  unfold issueStep
  split
  next h =>
    simp only [mayIssue, Bool.and_eq_true, decide_eq_true_eq] at h
    exact .inr ⟨h.1.1.1, h.1.1.2, h.1.2, h.2, rfl⟩
  next => exact .inl rfl

/-- Everything a take step can do (R27, R228). -/
theorem takeStep_cases (c : CallerId) (s : State) :
    takeStep c s = s ∨
    (∃ r, rspAt c s = some r ∧ takeStep c s = { setRsp c none s with taken := s.taken ++ [(c, r)] }) := by
  unfold takeStep
  split
  next r h => exact .inr ⟨r, h, rfl⟩
  next => exact .inl rfl

/-- Everything an ANSWER step can do (R162). -/
theorem answerStep_cases (res : TResult) (k : Nat) (s : State) :
    answerStep res k s = s ∨
    (∃ d tx, s.fatal = false ∧ resultAllowed s.params res = true ∧ s.seq = .wait ∧ s.cur = some d ∧ s.tx = some tx ∧
      answerStep res k s = emit (.result (framedCaller d) res)
        { s with res := some res, live := some (receivedAfter s.params tx res k), seq := .done }) := by
  unfold answerStep
  split
  · exact .inl rfl
  next hf =>
    split
    next d tx hq hc ht =>
      have hf : s.fatal = false ∧ resultAllowed s.params res = true := by simpa using hf
      exact .inr ⟨d, tx, hf.1, hf.2, hq, hc, ht, rfl⟩
    next => exact .inl rfl

/-! ### The step (R20) -/

/-- Everything a step can do: the agent that the next move names takes its step, after the move is used up. -/
inductive StepMove (s : State) : Host.Outcome State Fault Refusal → Prop where
  | serve (c : CallerId) (hm : nextMove s = .serve c) (o : Host.Outcome State Fault Refusal)
      (h : ServeMove c { advance s with turn := c } o) : StepMove s o
  | issue (c : CallerId) (r : Request) (hm : nextMove s = .issue c r) (hc : c < s.params.nCallers)
      (hq : reqAt c s = .empty) (hp : rspAt c s = none) (hr : r.wellFormed = true) :
      StepMove s (.next (place c r (advance s)))
  | take (c : CallerId) (r : Response) (hm : nextMove s = .take c) (hp : rspAt c s = some r) :
      StepMove s (.next { setRsp c none (advance s) with taken := s.taken ++ [(c, r)] })
  | answer (res : TResult) (k : Nat) (d : Framed) (tx : Transaction) (hm : nextMove s = .answer res k)
      (hf : s.fatal = false) (ha : resultAllowed s.params res = true) (hq : s.seq = .wait) (hc : s.cur = some d)
      (ht : s.tx = some tx) :
      StepMove s (.next (emit (.result (framedCaller d) res)
        { advance s with res := some res, live := some (receivedAfter s.params tx res k), seq := .done }))
  | reset (level : Level) (k : Nat) (hm : nextMove s = .reset level k) :
      StepMove s (.next (resetStep level k (advance s)))
  | idle (hm : ∀ level k, nextMove s ≠ .reset level k) : StepMove s (.next (advance s))

theorem step_move (s : State) : StepMove s (step s) := by
  unfold step takeMove
  split
  next c hm => exact .serve c hm _ (serve_move c _)
  next c r hm =>
    rcases issueStep_cases c r (advance s) with h | ⟨hc, hq, hp, hr, h⟩
    · rw [h]
      exact .idle (fun _ _ e => by rw [hm] at e; cases e)
    · rw [h]
      exact .issue c r hm hc hq hp hr
  next c hm =>
    rcases takeStep_cases c (advance s) with h | ⟨r, hp, h⟩
    · rw [h]
      exact .idle (fun _ _ e => by rw [hm] at e; cases e)
    · rw [h]
      exact .take c r hm hp
  next res k hm =>
    rcases answerStep_cases res k (advance s) with h | ⟨d, tx, hf, ha, hq, hc, ht, h⟩
    · rw [h]
      exact .idle (fun _ _ e => by rw [hm] at e; cases e)
    · rw [h]
      exact .answer res k d tx hm hf ha hq hc ht
  next level k hm => exact .reset level k hm

end Sys2Proof.Machine
end

