-- ==== Sys2Proof/Laws/PerInstr.lean ====
section
/-! SUPPORT. A fact about every instruction as syntax, one lemma for each constructor: the encoded request selects the
instruction's own row of opcode_table.json (R89). -/

namespace Sys2Proof.Laws.EncodedRow

/-- The request that `encode` makes selects the row of its instruction. -/
def Statement (i : Instr) : Prop := (rowOf i).selects (encode i).desc (encode i).len = true

theorem send (cmd : Byte) : Statement (.send cmd) := by
  have h : ∀ cmd : Byte, encodeDesc (.send cmd) &&& 0xFFFF00FF#32 = 0#32 := by decide +kernel
  simp [Statement, rowOf, rowSend, TableRow.selects, encode, encodeData, h]

theorem sendp (cmd : Byte) (pol : AlignPolicy) (bytes : List Byte) : Statement (.sendp cmd pol bytes) := by
  have h : ∀ cmd : Byte, encodeDesc (.sendp cmd .rightAlign []) &&& 0xFFFF00F7#32 = 1#32 ∧
      encodeDesc (.sendp cmd .leftAlign []) &&& 0xFFFF00F7#32 = 1#32 := by decide +kernel
  have e : encodeDesc (.sendp cmd pol bytes) = encodeDesc (.sendp cmd pol []) := rfl
  cases pol <;> simp [Statement, rowOf, rowSendp, TableRow.selects, encode, e, h]

theorem pack (pol : AlignPolicy) (width : Byte) (bytes : List Byte) : Statement (.pack pol width bytes) := by
  have h : ∀ width : Byte, encodeDesc (.pack .rightAlign width []) &&& 0xFF00FFF7#32 = 2#32 ∧
      encodeDesc (.pack .leftAlign width []) &&& 0xFF00FFF7#32 = 2#32 := by decide +kernel
  have e : encodeDesc (.pack pol width bytes) = encodeDesc (.pack pol width []) := rfl
  cases pol <;> simp [Statement, rowOf, rowPack, TableRow.selects, encode, e, h]

end Sys2Proof.Laws.EncodedRow
end

