-- ==== Sys2Proof/Tests/Slice0.lean ====
section
/-! SUPPORT. The author's tests. Expected results are the vectors of 95_test_vectors.md; each comment names the vector. -/

namespace Sys2Proof.Tests

open Sys2Proof.Machine Sys2Proof.Safety

/-! ### Well-formedness refuses -/

/-- A SENDP payload of 2^32 bytes fits no LEN (R80). -/
theorem test_sendp_too_long_is_ill_formed :
    (Instr.sendp 0x2A#8 .rightAlign (List.replicate (2 ^ 32) 0#8)).wellFormed = false := by
  simp only [Instr.wellFormed, lenFits, List.length_replicate]
  decide

/-- A PACK input of 2^32 bytes fits no LEN (R80). -/
theorem test_pack_too_long_is_ill_formed :
    (Instr.pack .rightAlign 4#8 (List.replicate (2 ^ 32) 0#8)).wellFormed = false := by
  simp only [Instr.wellFormed, lenFits, List.length_replicate]
  decide

/-- A record with fewer bytes than LEN is no request (R80), and reading its payload is refused (R51). -/
theorem test_short_record_is_refused :
    (Request.mk 0x00002A01#32 2#32 [0x01#8]).wellFormed = false ∧
    fetchRequest ⟨0x00002A01#32, 2#32, [0x01#8]⟩ = .shortPayload := by decide

/-! ### Decoding, bit by bit -/

/-- D-2: bits 31..24 RSV1, 23..16 WB, 15..8 CMD = 0x2C, 7..5 RSV0, 4 ORD, 3 POL, 2..0 OP = 000. -/
theorem test_decode_send :
    fetchRequest ⟨0b00000000_00000000_00101100_000_0_0_000#32, 0#32, []⟩ = .instr (.send 0x2C#8) := by decide

/-- D-7 with the payload of F8: CMD = 0x2A, POL = 0, OP = 001, LEN = 4. -/
theorem test_decode_sendp_right :
    fetchRequest ⟨0b00000000_00000000_00101010_000_0_0_001#32, 4#32, [0x00#8, 0x00#8, 0x00#8, 0xEF#8]⟩ =
      .instr (.sendp 0x2A#8 .rightAlign [0x00#8, 0x00#8, 0x00#8, 0xEF#8]) := by decide

/-- D-8: POL = 1, and LEN = 0 is legal. -/
theorem test_decode_sendp_left_empty :
    fetchRequest ⟨0b00000000_00000000_00101010_000_0_1_001#32, 0#32, []⟩ = .instr (.sendp 0x2A#8 .leftAlign []) := by
  decide

/-- D-11 with one byte: WB = 4, POL = 1, OP = 010. -/
theorem test_decode_pack :
    fetchRequest ⟨0b00000000_00000100_00000000_000_0_1_010#32, 1#32, [0x01#8]⟩ =
      .instr (.pack .leftAlign 4#8 [0x01#8]) := by decide

/-- D-3 to D-6, D-9, D-14 to D-21: the illegal rows, each by its clause of R91. -/
theorem test_decode_illegal_rows :
    decode 0x00002C00#32 1#32 = .illegal .sendField ∧ decode 0x00002C08#32 0#32 = .illegal .sendField ∧
    decode 0x00012C00#32 0#32 = .illegal .sendField ∧ decode 0x00002C10#32 0#32 = .illegal .byteOrder ∧
    decode 0x00012A01#32 3#32 = .illegal .sendpField ∧ decode 0x00002A02#32 3#32 = .illegal .packField ∧
    decode 0x00040012#32 3#32 = .illegal .byteOrder ∧ decode 0x00000003#32 0#32 = .illegal .reservedOp ∧
    decode 0x00000004#32 0#32 = .illegal .reservedOp ∧ decode 0x00000007#32 0#32 = .illegal .reservedOp ∧
    decode 0x00000020#32 0#32 = .illegal .reservedField ∧ decode 0x01000000#32 0#32 = .illegal .reservedField ∧
    decode 0x80002C00#32 0#32 = .illegal .reservedField := by decide

/-- A table word of 32 bits has LEN = 0; LEN and DATA stand above it. -/
theorem test_decode_table_words :
    decodeTableWord 32 0x00002C00 = some (.send 0x2C#8) ∧
    decodeTableWord 32 0x00002A09 = some (.sendp 0x2A#8 .leftAlign []) ∧
    decodeTableWord 32 0x0004000A = some (.pack .leftAlign 4#8 []) ∧
    decodeTableWord 80 0x0201000000020004000A = some (.pack .leftAlign 4#8 [0x01#8, 0x02#8]) ∧
    decodeTableWord 32 0x00000003 = none := by decide

/-! ### Text (R98) -/

/-- The example of R98 and a reference encoding of R100. -/
theorem test_assemble_examples :
    (assemble "sendp 0x2A, left, [0x00, 0x00, 0x00, 0xEF]").map encode =
      some ⟨0x00002A09#32, 4#32, [0x00#8, 0x00#8, 0x00#8, 0xEF#8]⟩ ∧
    (assemble "SEND 0x2C").map encodeDesc = some 0x00002C00#32 := by decide

/-- The long form, a decimal width, and a SENDP with an empty payload that is no SEND (R99). -/
theorem test_assemble_forms :
    assemble "pack right, 4, [1, 0xff]" = some (.pack .rightAlign 4#8 [0x01#8, 0xFF#8]) ∧
    assemble "send_with_payload 0x2C, right, []" = some (.sendp 0x2C#8 .rightAlign []) ∧
    assemble "pack right, 256, []" = none := by decide

/-! ### States of the tests -/

/-- The convention of the vectors: W = 4, unbounded; two callers. -/
def params4 : Params :=
  { wordBytes := 4, bufBytes := none, nCallers := 2, dir := .frontForward, errType := .countable }

/-- The same with BUF_BYTES = 4 (E3, Q5). -/
def params4small : Params := { params4 with bufBytes := some 4 }

/-- Caller 0's request `i` is pending in a block after reset, CL drawn DATA. -/
def pendingState (p : Params) (i : Instr) : State :=
  { State.resetWith p .data with req := [.pending (encode i), .empty] }

/-- Caller 0's framed request waits for the lock. -/
def waitingState (p : Params) (d : Framed) : State :=
  { State.resetWith p .data with req := [.waiting d, .empty] }

/-- Caller 0's framed call is in a phase before its BUILD step. -/
def callState (p : Params) (d : Framed) (seq : Phase) : State :=
  { State.resetWith p .data with req := [.active, .empty], lock := .held 0, cur := some d, seq := seq }

/-- Caller 0's framed call is built. -/
def builtState (p : Params) (d : Framed) (seq : Phase) : State :=
  { callState p d seq with cl := .command, tx := some (buildTransaction p d), wbuf := buildWords p d }

/-- Caller 0's framed call is answered. -/
def doneState (p : Params) (d : Framed) (res : TResult) : State :=
  { builtState p d .done with
    res := some res, live := some (receivedAfter p (buildTransaction p d) res 1) }

/-- The block is halted. -/
def haltedState (p : Params) : State := { State.resetWith p .data with fatal := true }

/-- The convention of the vectors with a `TErr` of one value. -/
def params4oneError : Params := { params4 with errType := .finite 1 }

/-- Caller 0 has the response of a SEND. -/
def answered0 : State := { State.resetWith params4 .data with rsp := [some .ok, none], hist := [.reset, .respond 0 .ok] }

/-- The bytes 1 to 5 (F9). -/
def five : List Byte := [1#8, 2#8, 3#8, 4#8, 5#8]

/-- The framed request of F9. -/
def f9 : Framed := .sendp 0 0x2A#8 .rightAlign five

/-- The framed request of F1. -/
def f1 : Framed := .send 0 0x01#8

/-- Whether an outcome is a next state with a property. -/
def nextIs (o : Host.Outcome State Fault Refusal) (f : State → Bool) : Bool :=
  match o with
  | .next t => f t
  | .fault _ => false
  | .refused _ => false

/-! ### One step each -/

/-- P6: five bytes at width 4, both policies (C1: the pad is in the first word). -/
theorem test_pack_partial_word :
    nextIs (exec (.pack .rightAlign 4#8 five) (pendingState params4 (.pack .rightAlign 4#8 five)))
      (fun t => decide (rspAt 0 t = some (.packed 2#32 [0x00000001, 0x02030405]) ∧ reqAt 0 t = .empty)) = true ∧
    nextIs (exec (.pack .leftAlign 4#8 five) (pendingState params4 (.pack .leftAlign 4#8 five)))
      (fun t => decide (rspAt 0 t = some (.packed 2#32 [0x01020304, 0x05000000]))) = true := by decide

/-- P37, P35 and P34 in the order of R187: width 0 before capacity; 8 bytes do not fit 4. -/
theorem test_pack_errors :
    nextIs (exec (.pack .rightAlign 0#8 five) (pendingState params4small (.pack .rightAlign 0#8 five)))
      (fun t => decide (rspAt 0 t = some .invalidWidth ∧ t.fatal = false)) = true ∧
    nextIs (exec (.pack .rightAlign 4#8 five) (pendingState params4small (.pack .rightAlign 4#8 five)))
      (fun t => decide (rspAt 0 t = none ∧ t.fatal = true ∧ t.hist = [.reset, .fatal 0])) = true := by decide

/-- F2: the transport's error comes back unchanged, and the lock is free again. -/
theorem test_send_complete :
    nextIs (exec (.send 0x01#8) (doneState params4 f1 (.err ⟨7⟩)))
      (fun t => decide (rspAt 0 t = some (.transportError ⟨7⟩) ∧ t.lock = .free ∧ t.cl = .command)) = true := by decide

/-- F1, the LINE row: the line is driven to COMMAND. -/
theorem test_send_line :
    nextIs (exec (.send 0x01#8) (callState params4 f1 .line))
      (fun t => decide (t.cl = .command ∧ t.seq = .build ∧ t.hist = [.reset, .setLine 0 .command])) = true := by decide

/-- F9, the BUILD row. -/
theorem test_sendp_build :
    nextIs (exec (.sendp 0x2A#8 .rightAlign five) (callState params4 f9 .build))
      (fun t => decide (t.wbuf = [0x00000001, 0x02030405] ∧
        t.tx = some ⟨0x2A#8, some [0x00000001, 0x02030405], 40⟩ ∧ t.seq = .submit)) = true := by decide

/-- E3: 8 bytes do not fit 4, before the lock or the line is touched. -/
theorem test_sendp_accept_exhausts :
    nextIs (exec (.sendp 0x2A#8 .rightAlign five) (pendingState params4small (.sendp 0x2A#8 .rightAlign five)))
      (fun t => decide (t.fatal = true ∧ t.lock = .free ∧ t.cl = .data ∧ t.hist = [.reset, .fatal 0])) = true := by
  decide

/-- E2: ORD = 1 is answered ILLEGAL_REQUEST. -/
theorem test_illegal_request_is_rejected :
    nextIs (serve 0 { State.resetWith params4 .data with req := [.pending ⟨0x00002C10#32, 0#32, []⟩, .empty] })
      (fun t => decide (rspAt 0 t = some .illegalRequest ∧ reqAt 0 t = .empty ∧ t.cl = .data)) = true := by decide

/-- T7 and T8: the windows of five bytes under each policy and direction. -/
theorem test_windows :
    window .frontForward 4 [0x000000A1, 0xA2A3A4A5] 5 = [0x00#8, 0x00#8, 0x00#8, 0xA1#8, 0xA2#8] ∧
    window .endBackward 4 [0x000000A1, 0xA2A3A4A5] 5 = [0xA1#8, 0xA2#8, 0xA3#8, 0xA4#8, 0xA5#8] ∧
    window .frontForward 4 [0xA1A2A3A4, 0xA5000000] 5 = [0xA1#8, 0xA2#8, 0xA3#8, 0xA4#8, 0xA5#8] ∧
    window .endBackward 4 [0xA1A2A3A4, 0xA5000000] 5 = [0xA4#8, 0xA5#8, 0x00#8, 0x00#8, 0x00#8] := by decide

/-- Z1: a reset after SUBMIT abandons the call. -/
theorem test_reset_abandons_call :
    nextIs (takeMove (.reset .data 2) (builtState params4 f9 .wait))
      (fun t => decide (t.seq = .idle ∧ t.lock = .free ∧ reqAt 0 t = .empty ∧ rspAt 0 t = none ∧ t.wbuf = [] ∧
        t.device = [[0x2A#8, 0x00#8]] ∧ t.hist = [.reset, .reset])) = true := by decide

/-- R228: a response taken out before a reset is still observed; one that was never taken is not. -/
theorem test_taken_response_is_observed :
    nextIs (takeMove (.take 0) answered0)
      (fun s => decide (rspAt 0 s = none) && nextIs (takeMove (.reset .data 0) s)
        (fun t => decide (observation t = ([.reset, .respond 0 .ok, .reset], [(0, .ok)])))) = true ∧
    nextIs (takeMove (.reset .data 0) answered0)
      (fun t => decide (observation t = ([.reset, .respond 0 .ok, .reset], []))) = true := by decide

/-- R9 and R30 with a `TErr` of one value: the transport answers with that value and with no other. -/
theorem test_answer_is_of_error_type :
    nextIs (takeMove (.answer (.err ⟨0⟩) 0) (builtState params4oneError f9 .wait)) (fun t => decide (t.seq = .done)) = true ∧
    nextIs (takeMove (.answer (.err ⟨1⟩) 0) (builtState params4oneError f9 .wait)) (fun t => decide (t.seq = .wait)) = true := by
  decide

/-- Each operation is run as the first step after reset. -/
theorem test_fetch_word_runs_first :
    nextIs (step (State.reset.withFetchWord 32 0x00002C00))
      (fun t => decide (reqAt 0 t = .waiting (.send 0 0x2C#8))) = true ∧
    nextIs (step (State.reset.withFetchWord 32 0x00002A09))
      (fun t => decide (reqAt 0 t = .waiting (.sendp 0 0x2A#8 .leftAlign []))) = true ∧
    nextIs (step (State.reset.withFetchWord 32 0x0004000A))
      (fun t => decide (rspAt 0 t = some (.packed 0#32 []))) = true := by decide

/-! ### Witnesses: states and operands that meet the hypotheses of each statement, at the ends of their ranges -/

/-- A state with the schedule's next moves. -/
def planned (s : State) (ms : List Move) : State := { s with plan := ms }

/-- Caller 0's F9 call is submitted, with the history that leads there, and the transport answers next. -/
def inFlight : State :=
  { builtState params4 f9 .wait with
    hist := [.reset, .issue 0 (encode (framedInstr f9)), .setLine 0 .command,
      .submit 0 (buildTransaction params4 f9)]
    plan := [.answer .ok 0] }

/-- A SEND waits in an idle block, and the schedule runs its whole call; the transport answers with an error. -/
def sendCall : State :=
  planned (pendingState params4 (.send 0x01#8))
    ([.serve 0, .serve 0, .serve 0, .serve 0, .serve 0, .answer (.err ⟨7⟩) 1, .serve 0] ++ [])

/-- As `sendCall`, a SENDP with the given payload, and the transport answers OK. -/
def sendpCall (bytes : List Byte) : State :=
  planned (pendingState params4 (.sendp 0x2A#8 .rightAlign bytes))
    ([.serve 0, .serve 0, .serve 0, .serve 0, .serve 0, .answer .ok 0, .serve 0] ++ [.take 0])

theorem inFlight_blockInv : BlockInv inFlight where
  reqLength := rfl
  rspLength := rfl
  slots c := match c with
    | 0 => ⟨rfl, f9, rfl, rfl⟩
    | 1 => trivial
    | _ + 2 => trivial
  framer := ⟨f9, ⟨rfl, rfl, rfl, rfl⟩, ⟨rfl, rfl⟩, ⟨rfl, rfl⟩⟩

theorem sendCall_blockInv : BlockInv sendCall where
  reqLength := rfl
  rspLength := rfl
  slots c := match c with
    | 0 => ⟨rfl, rfl⟩
    | 1 => trivial
    | _ + 2 => trivial
  framer := ⟨rfl, rfl, ⟨rfl, rfl⟩, ⟨rfl, rfl⟩⟩

theorem sendpCall_blockInv (bytes : List Byte) (h : bytes.length < 2 ^ 32) : BlockInv (sendpCall bytes) where
  reqLength := rfl
  rspLength := rfl
  slots c := match c with
    | 0 => ⟨rfl, decide_eq_true (Nat.mod_eq_of_lt h).symm⟩
    | 1 => trivial
    | _ + 2 => trivial
  framer := ⟨rfl, rfl, ⟨rfl, rfl⟩, ⟨rfl, rfl⟩⟩

theorem doneState_blockInv (res : TResult) (h : res = .ok) : BlockInv (doneState params4 f9 res) where
  reqLength := rfl
  rspLength := rfl
  slots c := match c with
    | 0 => ⟨rfl, f9, rfl, rfl⟩
    | 1 => trivial
    | _ + 2 => trivial
  framer := ⟨f9, ⟨rfl, rfl, rfl, rfl⟩, ⟨rfl, rfl⟩, res, _, rfl, rfl, by subst h; exact ⟨[], List.append_nil _⟩,
    by subst h; intro _; rfl⟩

theorem inFlight_openCalls : OpenCalls inFlight := fun c => match c with
  | 0 => by decide
  | 1 => by decide
  | n + 2 => by simp [inFlight, reqAt, builtState, callState, isOpen, openNext]

theorem witness_DecodeOfEncodeIsIdentity :
    (Instr.send 0xFF#8).wellFormed = true ∧ (Instr.sendp 0x00#8 .leftAlign []).wellFormed = true ∧
    (Instr.pack .rightAlign 255#8 five).wellFormed = true := by decide

theorem witness_EncodeOfDecodeIsIdentity :
    (Request.mk 0x0004000A#32 1#32 [0x01#8]).wellFormed = true ∧
    fetchRequest ⟨0x0004000A#32, 1#32, [0x01#8]⟩ = .instr (.pack .leftAlign 4#8 [0x01#8]) := by decide

theorem witness_StepRunsDecodedInstruction :
    (let s := planned (pendingState params4 (.send 0x01#8)) [.serve 0]
     s.fatal = false ∧ nextMove s = .serve 0 ∧ reqAt 0 s = .pending (encode (.send 0x01#8)) ∧
       fetchRequest (encode (.send 0x01#8)) = .instr (.send 0x01#8)) ∧
    (let s := planned (waitingState params4 f9) [.serve 0]
     s.fatal = false ∧ nextMove s = .serve 0 ∧ reqAt 0 s = .waiting f9) ∧
    (let s := planned (callState params4 f9 .line) [.serve 0]
     s.fatal = false ∧ nextMove s = .serve 0 ∧ reqAt 0 s = .active ∧ s.cur = some f9 ∧ framedCaller f9 = 0) := by decide

theorem witness_FetchWordIsRunNext :
    0 < State.reset.req.length ∧ fetchRequest (tableRequest 32 0x00002C00) = .instr (.send 0x2C#8) := by decide

theorem witness_PackOfEmptyIsEmpty : 1 ≤ 1 ∧ pack [] .leftAlign 1 = .words [] := by decide

theorem witness_WordCountAndPadAreLeast :
    1 ≤ 4 ∧ wordCount 0 4 = 0 ∧ wordCount 4 4 = 1 ∧ padCount 4 4 = 0 ∧ wordCount 5 4 = 2 ∧ padCount 5 4 = 3 := by decide

theorem witness_PackGivesCountedBoundedWords : 1 ≤ 255 ∧ (packWords five .leftAlign 255).length = 1 := by decide

theorem witness_PackLanesHoldBytes :
    1 ≤ 4 ∧ 0 < wordCount five.length 4 ∧ 2 < 4 ∧ ¬ padCount five.length 4 ≤ 0 * 4 + 2 ∧
    1 < wordCount five.length 4 ∧ 0 < 4 ∧ padCount five.length 4 ≤ 1 * 4 + 0 ∧ 1 * 4 + 0 < five.length ∧
    1 < 4 ∧ ¬ 1 * 4 + 1 < five.length := by decide

theorem witness_PackPoliciesAgreeWithoutPad : 1 ≤ 5 ∧ five.length % 5 = 0 ∧ five.length % 1 = 0 := by decide

theorem witness_PackOfShortPayloadIsOneWord : 0 < five.length ∧ five.length < 6 := by decide

theorem witness_PackKeepsBigEndianValue :
    1 ≤ 4 ∧ wordsValue 4 (packWords five .rightAlign 4) = 0x0102030405 ∧
    wordsValue 4 (packWords five .leftAlign 4) = 0x0102030405000000 := by decide

theorem witness_ImageOfPackIsPaddedBytes :
    1 ≤ 4 ∧ image 4 (packWords five .leftAlign 4) = five ++ [0x00#8, 0x00#8, 0x00#8] := by decide

theorem witness_UnpackOfPackIsIdentity : 1 ≤ 4 ∧ unpack [0x00000001, 0x02030405] 5 .rightAlign 4 = five := by decide

theorem witness_PackRequestCompletes :
    (let s := pendingState params4small (.pack .leftAlign 4#8 [1#8])
     s.fatal = false ∧ reqAt s.turn s = .pending (encode (.pack .leftAlign 4#8 [1#8])) ∧ 4#8 ≠ 0#8 ∧
       bufferFits s.params 1 (widthOperand 4#8) = true) ∧
    five.length < 2 ^ 32 := by decide

theorem witness_PackOfZeroWidthAnswersInvalidWidth :
    let s := pendingState params4small (.pack .rightAlign 0#8 five)
    s.fatal = false ∧ reqAt s.turn s = .pending (encode (.pack .rightAlign 0#8 five)) := by decide

theorem witness_ExhaustedBufferSetsFatal :
    (let s := pendingState params4small (.pack .rightAlign 4#8 five)
     s.fatal = false ∧ reqAt s.turn s = .pending (encode (.pack .rightAlign 4#8 five)) ∧ 4#8 ≠ 0#8 ∧
       bufferFits s.params five.length (widthOperand 4#8) = false) ∧
    (let s := pendingState params4small (.sendp 0x2A#8 .rightAlign five)
     s.fatal = false ∧ reqAt s.turn s = .pending (encode (.sendp 0x2A#8 .rightAlign five)) ∧
       bufferFits s.params five.length s.params.wordBytes = false) ∧
    bufferFits params4small 4 4 = true := by decide

theorem witness_PackRequestFrame :
    ∃ t, exec (.pack .rightAlign 4#8 five) (pendingState params4 (.pack .rightAlign 4#8 five)) = .next t := ⟨_, rfl⟩

theorem witness_PackCommutesWithFramer :
    framedCaller f9 ≠ 1 ∧ framedFits params4 f9 = true ∧ bufferFits params4 five.length 4 = true := by decide

theorem witness_StatusAndLineCodesAsListed : framedResponse .ok = .ok ∧ framedResponse (.err ⟨7⟩) = .transportError ⟨7⟩ := by
  decide

theorem witness_RejectStepAnswersIllegalRequest :
    let s : State := { State.resetWith params4 .data with req := [.pending ⟨0x00002C10#32, 0#32, []⟩, .empty] }
    s.fatal = false ∧ reqAt 0 s = .pending ⟨0x00002C10#32, 0#32, []⟩ ∧ decode 0x00002C10#32 0#32 = .illegal .byteOrder := by
  decide

theorem witness_AcceptStepChecksBuffer :
    (let s := pendingState params4 (.send 0x01#8)
     s.fatal = false ∧ reqAt s.turn s = .pending (encode (.send 0x01#8))) ∧
    ((∀ pol w b, Instr.send 0x01#8 ≠ .pack pol w b) ∧ (waitingState params4 f1).fatal = false ∧
      (∀ q, reqAt (waitingState params4 f1).turn (waitingState params4 f1) ≠ .pending q) ∧
      ∃ t, exec (.send 0x01#8) (waitingState params4 f1) = .next t) :=
  ⟨by decide, fun _ _ _ => Instr.noConfusion, rfl, fun _ => ReqSlot.noConfusion, _, rfl⟩

theorem witness_GrantStepTakesLock :
    (let s := waitingState params4 f9
     s.fatal = false ∧ framedCaller f9 = s.turn ∧ reqAt s.turn s = .waiting f9 ∧ s.lock = .free ∧ s.seq = .idle) ∧
    (let s : State := { waitingState params4 f9 with lock := .held 1, seq := .line }
     s.fatal = false ∧ framedCaller f9 = s.turn ∧ reqAt s.turn s = .waiting f9 ∧ s.lock ≠ .free) := by decide

theorem witness_LineStepDrivesCommand :
    let s := callState params4 f9 .line
    s.fatal = false ∧ framedCaller f9 = s.turn ∧ reqAt s.turn s = .active ∧ s.cur = some f9 ∧ s.seq = .line := by decide

theorem witness_BuildStepMakesTransaction :
    (let s := callState params4 f1 .build
     s.fatal = false ∧ reqAt s.turn s = .active ∧ s.seq = .build ∧ s.cur = some (.send s.turn 0x01#8)) ∧
    (let s := callState params4 (.sendp 0 0x2A#8 .leftAlign []) .build
     s.fatal = false ∧ reqAt s.turn s = .active ∧ s.seq = .build ∧ s.cur = some (.sendp s.turn 0x2A#8 .leftAlign [])) ∧
    (let s := callState { params4 with bufBytes := some 8 } f9 .build
     s.fatal = false ∧ reqAt s.turn s = .active ∧ s.seq = .build ∧ five ≠ [] ∧
       s.cur = some (.sendp s.turn 0x2A#8 .rightAlign five) ∧ framedFits s.params f9 = true ∧
       s.params.bufBytes = some 8) := by decide

theorem witness_SubmitStepCallsTransport :
    let s := builtState params4 f9 .submit
    s.fatal = false ∧ framedCaller f9 = s.turn ∧ reqAt s.turn s = .active ∧ s.cur = some f9 ∧ s.seq = .submit ∧
    s.tx = some (buildTransaction params4 f9) := by decide

theorem witness_AnswerStepLatchesResult :
    resultAllowed params4 .ok = true ∧ resultAllowed params4oneError (.err ⟨0⟩) = true ∧
    (let s := builtState params4 f9 .wait
     s.fatal = false ∧ s.seq = .wait ∧ s.cur = some f9 ∧ s.tx = some (buildTransaction params4 f9)) ∧
    (∀ res k, Move.serve 0 ≠ .answer res k) ∧ (∀ level k, Move.serve 0 ≠ .reset level k) ∧
    ∃ t, takeMove (.serve 0) (builtState params4 f9 .wait) = .next t :=
  ⟨rfl, rfl, by decide, fun _ _ => Move.noConfusion, fun _ _ => Move.noConfusion, _, rfl⟩

theorem witness_CompleteStepReleasesAndResponds :
    (let s := doneState params4 f9 .ok
     s.fatal = false ∧ framedCaller f9 = s.turn ∧ reqAt s.turn s = .active ∧ s.cur = some f9 ∧ s.seq = .done ∧
       s.res = some .ok) ∧
    (let s := doneState params4 f1 (.err ⟨7⟩)
     s.fatal = false ∧ framedCaller f1 = s.turn ∧ reqAt s.turn s = .active ∧ s.cur = some f1 ∧ s.seq = .done ∧
       s.res = some (.err ⟨7⟩)) := by decide

theorem witness_CommandByteIsNotInterpreted :
    (let s := pendingState params4small (.sendp 0xFF#8 .leftAlign [1#8])
     s.fatal = false ∧ reqAt s.turn s = .pending (encode (.sendp 0xFF#8 .leftAlign [1#8])) ∧
       bufferFits s.params 1 s.params.wordBytes = true) ∧
    (let s := callState params4 (.send 0 0xFF#8) .build
     s.fatal = false ∧ reqAt s.turn s = .active ∧ s.seq = .build ∧ s.cur = some (.send s.turn 0xFF#8)) ∧
    (let s := callState params4 (.sendp 0 0x00#8 .leftAlign five) .build
     s.fatal = false ∧ reqAt s.turn s = .active ∧ s.seq = .build ∧
       s.cur = some (.sendp s.turn 0x00#8 .leftAlign five)) := by decide

theorem witness_DeclaredLengthIsUnpadded :
    let s := callState params4 f9 .build
    s.fatal = false ∧ reqAt s.turn s = .active ∧ s.seq = .build ∧
    s.cur = some (.sendp s.turn 0x2A#8 .rightAlign five) := by decide

theorem witness_FramedRequestFrame :
    (∀ pol w b, Instr.send 0x01#8 ≠ .pack pol w b) ∧
    (∃ t, exec (.send 0x01#8) (callState params4 f1 .build) = .next t) ∧
    (callState params4 f1 .build).seq ≠ .done ∧ (callState params4 f1 .build).seq ≠ .line ∧
    (callState params4 f1 .build).seq ≠ .idle ∧
    (builtState params4 f9 .submit).seq ≠ .build ∧ (builtState params4 f9 .submit).seq ≠ .done ∧
    (∃ t, exec (framedInstr f9) (builtState params4 f9 .submit) = .next t) :=
  ⟨fun _ _ _ => Instr.noConfusion, ⟨_, rfl⟩, by decide, by decide, by decide, by decide, by decide, _, rfl⟩

theorem witness_SendWholeCall :
    BlockInv sendCall ∧ sendCall.fatal = false ∧ sendCall.seq = .idle ∧
    reqAt 0 sendCall = .pending (encode (.send 0x01#8)) ∧ fetchRequest (encode (.send 0x01#8)) = .instr (.send 0x01#8) ∧
    resultAllowed sendCall.params (.err ⟨7⟩) = true ∧
    sendCall.plan = [.serve 0, .serve 0, .serve 0, .serve 0, .serve 0, .answer (.err ⟨7⟩) 1, .serve 0] ++ [] :=
  ⟨sendCall_blockInv, rfl, rfl, rfl, by decide, rfl, rfl⟩

theorem witness_SendpWholeCall :
    (BlockInv (sendpCall five) ∧ (sendpCall five).fatal = false ∧ (sendpCall five).seq = .idle ∧
      reqAt 0 (sendpCall five) = .pending (encode (.sendp 0x2A#8 .rightAlign five)) ∧
      fetchRequest (encode (.sendp 0x2A#8 .rightAlign five)) = .instr (.sendp 0x2A#8 .rightAlign five) ∧
      bufferFits (sendpCall five).params five.length (sendpCall five).params.wordBytes = true ∧
      resultAllowed (sendpCall five).params .ok = true ∧ five ≠ [] ∧
      (sendpCall five).plan =
        [.serve 0, .serve 0, .serve 0, .serve 0, .serve 0, .answer .ok 0, .serve 0] ++ [.take 0]) ∧
    (BlockInv (sendpCall []) ∧ reqAt 0 (sendpCall []) = .pending (encode (.sendp 0x2A#8 .rightAlign [])) ∧
      fetchRequest (encode (.sendp 0x2A#8 .rightAlign [])) = .instr (.sendp 0x2A#8 .rightAlign [])) :=
  ⟨⟨sendpCall_blockInv five (by decide), rfl, rfl, rfl, by decide, rfl, rfl, by decide, rfl⟩,
    sendpCall_blockInv [] (by decide), rfl, by decide⟩

theorem witness_CorrectPairingDeliversPayload :
    correctPairing .rightAlign .endBackward = true ∧ correctPairing .leftAlign .frontForward = true := by decide

theorem witness_MismatchedPairingDeliversPad : 1 ≤ 5 ∧ five.length % 5 = 0 ∧ five.length % 4 ≠ 0 := by decide

theorem witness_IssueAndTakeSteps :
    (1 : CallerId) < ((State.resetWith params4 .data).params.nCallers : Nat) ∧ (encode (.send 0x01#8)).wellFormed = true ∧
    (let s := State.resetWith params4 .data
     reqAt 1 s = .empty ∧ rspAt 1 s = none) ∧
    (reqAt 0 (pendingState params4 (.send 0x01#8)) ≠ .empty) ∧
    (0 : CallerId) < (answered0.params.nCallers : Nat) ∧ rspAt 0 answered0 = some .ok := by decide

theorem witness_ErrorAnswerDeliversSomePrefix :
    (let s := builtState params4oneError f9 .wait
     s.fatal = false ∧ s.seq = .wait ∧ s.cur = some f9 ∧ s.tx = some (buildTransaction params4oneError f9) ∧
       isErrorOf s.params.errType ⟨0⟩ = true ∧
       [] <+: transactionStream s.params (buildTransaction params4oneError f9)) := by decide

theorem witness_NoStepReadsErrorValues :
    let s := planned (builtState params4oneError f9 .wait) [.answer (.err ⟨0⟩) 1]
    s.plan = .answer (.err ⟨0⟩) 1 :: [] ∧
    (∀ e, isErrorOf s.params.errType e = true → isErrorOf (.finite 6) ((fun _ => ⟨5⟩ : TErr → TErr) e) = true) ∧
    (∀ res k, Move.answer (.err ⟨0⟩) 1 = .answer res k → resultAllowed s.params res = true) :=
  ⟨rfl, fun _ _ => rfl, fun _ _ h => by cases h; rfl⟩

theorem answered0_observed : Observed answered0 where
  waiting c r h := match c, h with
    | 0, h => by cases h; decide
    | 1, h => by cases h
    | _ + 2, h => by cases h
  taken _ _ h := by cases h
  latched _ h := by cases h
  results c res h := by simp [answered0, State.resetWith] at h
  responses c e h := by simp [answered0, State.resetWith] at h

theorem witness_StepKeepsObservation :
    Observed (planned answered0 [.take 0]) ∧ ∃ t, step (planned answered0 [.take 0]) = .next t ∧ t.taken = [(0, .ok)] :=
  ⟨⟨answered0_observed.1, answered0_observed.2, answered0_observed.3, answered0_observed.4, answered0_observed.5⟩,
    _, rfl, rfl⟩

theorem witness_AbandonedCallDeliversSomePrefix :
    (let s := builtState params4 f9 .wait
     s.tx = some (buildTransaction params4 f9) ∧ s.seq = .wait) ∧
    (let s := doneState params4 f9 .ok
     s.tx = some (buildTransaction params4 f9) ∧ s.seq = .done) ∧
    (let s := builtState params4 f9 .submit
     s.tx = some (buildTransaction params4 f9) ∧ s.seq ≠ .wait ∧ s.seq ≠ .done) ∧
    (let s := callState params4 f9 .build
     s.tx = none ∧ s.seq ≠ .wait ∧ s.seq ≠ .done) ∧
    [0x2A#8] <+: transactionStream params4 (buildTransaction params4 f9) := by decide

theorem witness_FatalIsSticky :
    (let s := planned (haltedState params4) [.serve 0]
     s.fatal = true ∧ nextMove s = .serve 0 ∧ ∃ t, step s = .next t) ∧
    (let s := planned (haltedState params4) [.reset .data 0]
     s.fatal = true ∧ nextMove s = .reset .data 0 ∧ ∃ t, step s = .next t ∧ t.fatal = false) ∧
    (let s := planned (pendingState params4small (.pack .rightAlign 4#8 five)) [.serve 0]
     s.fatal = false ∧ ∃ t, step s = .next t ∧ t.fatal = true) :=
  ⟨⟨rfl, rfl, _, rfl⟩, ⟨rfl, rfl, _, rfl, rfl⟩, rfl, _, rfl, rfl⟩

theorem witness_OnlyLineStepDrivesLine :
    (∃ t, step (planned (callState params4 f9 .line) [.serve 0]) = .next t ∧ t.cl = .command) ∧
    (∃ t, step (planned (callState params4 f9 .line) [.reset .data 0]) = .next t ∧ t.cl = .data) :=
  ⟨⟨_, rfl, rfl⟩, _, rfl, rfl⟩

theorem witness_NoStepEmitsDataLevel :
    (∃ t, step (planned (callState params4 f9 .line) [.serve 0]) = .next t) ∧
    (∀ c, Event.setLine c .data ∉ (planned (callState params4 f9 .line) [.serve 0]).hist) :=
  ⟨⟨_, rfl⟩, fun c => by simp [planned, callState, State.resetWith]⟩

theorem witness_NoRequestReadsControlLine :
    ∃ t, exec (framedInstr f9) (callState params4 f9 .line) = .next t := ⟨_, rfl⟩

theorem witness_HistoryGrowsAndParametersStay : ∃ t, step inFlight = .next t := ⟨_, rfl⟩

theorem witness_ResponsesPerOperation :
    (∃ t, exec (framedInstr f9) (doneState params4 f9 .ok) = .next t ∧ rspAt 0 t = some .ok) ∧
    (∃ t, exec (.send 0x01#8) (doneState params4 f1 (.err ⟨7⟩)) = .next t ∧ rspAt 0 t = some (.transportError ⟨7⟩)) ∧
    (∃ t, exec (.pack .leftAlign 0#8 five) (pendingState params4 (.pack .leftAlign 0#8 five)) = .next t ∧
      rspAt 0 t = some .invalidWidth) := ⟨⟨_, rfl, rfl⟩, ⟨_, rfl, rfl⟩, _, rfl, rfl⟩

theorem witness_StepKeepsInvariant : BlockInv inFlight ∧ ∃ t, step inFlight = .next t := ⟨inFlight_blockInv, _, rfl⟩

theorem witness_InvariantStateNeverStops : BlockInv sendCall ∧ BlockInv inFlight :=
  ⟨sendCall_blockInv, inFlight_blockInv⟩

theorem witness_StepKeepsBusOrder : BlockInv inFlight ∧ BusOrder inFlight ∧ ∃ t, step inFlight = .next t :=
  ⟨inFlight_blockInv, by rw [BusOrder]; decide, _, rfl⟩

theorem witness_StepKeepsOpenCalls : BlockInv inFlight ∧ OpenCalls inFlight ∧ ∃ t, step inFlight = .next t :=
  ⟨inFlight_blockInv, inFlight_openCalls, _, rfl⟩

theorem witness_StepKeepsLineAtCommand : LineOk inFlight ∧ lineKnown inFlight.hist = true ∧ ∃ t, step inFlight = .next t :=
  ⟨fun _ => rfl, by decide, _, rfl⟩

theorem witness_InvariantGivesListedItems : BlockInv inFlight ∧ LineOk inFlight ∧ inFlight.lock = .held 0 :=
  ⟨inFlight_blockInv, fun _ => rfl, rfl⟩

theorem witness_CompleteLeavesFramerStateless :
    BlockInv (doneState params4 f9 .ok) ∧ (doneState params4 f9 .ok).fatal = false ∧
    (doneState params4 f9 .ok).turn = framedCaller f9 ∧ (doneState params4 f9 .ok).cur = some f9 ∧
    (doneState params4 f9 .ok).seq = .done ∧ ∃ t, exec (framedInstr f9) (doneState params4 f9 .ok) = .next t :=
  ⟨doneState_blockInv .ok rfl, rfl, rfl, rfl, rfl, _, rfl⟩

end Sys2Proof.Tests
end

section
/-! PROOFS of the scope family (R9, R13, R29, R30, R114, R115, R230): the least word count, the growth of the history,
and the blindness of every step to error values. -/

namespace Sys2Proof.Machine

open Sys2Proof.Safety

/-! ### The least word count (R13, R114, R115) -/

/-- No smaller number of words of `w` bytes holds `n` bytes (R13). -/
theorem wordCount_le_of_le_mul {n w q : Nat} (hw : 1 ≤ w) (hq : n ≤ q * w) : wordCount n w ≤ q := by
  have hlt : wordCount n w * w < (q + 1) * w :=
    calc wordCount n w * w < n + w := wordCount_mul_lt hw
      _ ≤ q * w + w := Nat.add_le_add_right hq w
      _ = (q + 1) * w := (Nat.succ_mul q w).symm
  exact Nat.le_of_lt_succ (Nat.lt_of_mul_lt_mul_right hlt)

/-- Words hold at least one byte each, so there are at most `n` of them (R114). -/
theorem wordCount_le {n w : Nat} (hw : 1 ≤ w) : wordCount n w ≤ n :=
  wordCount_le_of_le_mul hw (Nat.le_mul_of_pos_right n hw)

/-- A byte needs a word (R114). -/
theorem wordCount_pos {n w : Nat} (hw : 1 ≤ w) (hn : 1 ≤ n) : 1 ≤ wordCount n w := by
  have hle := le_wordCount_mul (n := n) hw
  exact Nat.pos_of_mul_pos_right (Nat.lt_of_lt_of_le hn hle)

/-- There is no padding exactly when the width divides the length (R115). -/
theorem padCount_eq_zero_iff {n w : Nat} (hw : 1 ≤ w) : padCount n w = 0 ↔ n % w = 0 := by
  have hmul := wordCount_mul_eq (n := n) hw
  constructor
  · intro hpad
    have hn : n = wordCount n w * w := by omega
    rw [hn]
    exact Nat.mul_mod_left _ w
  · intro hmod
    have hn : n / w * w = n := Nat.div_mul_cancel (Nat.dvd_of_mod_eq_zero hmod)
    have hle := Nat.mul_le_mul_right w (wordCount_le_of_le_mul hw hn.ge)
    omega

/-- Settles O10: the word count rounds up, so one word fewer leaves a byte out. -/
theorem wordCountAndPadAreLeast : Obligations.WordCountAndPadAreLeast := fun _ _ hw =>
  ⟨le_wordCount_mul hw, fun _ => wordCount_le_of_le_mul hw, wordCount_le hw, wordCount_pos hw,
    Nat.le_sub_one_of_lt (padCount_lt hw), padCount_eq_zero_iff hw, wordCount_mul_eq hw⟩

/-! ### What a run only adds to (R29, R228, R230) -/

/-- `t` may come after `s`: the history and the responses taken of `s` begin those of `t`, and the
parameters are the same (R9). -/
structure GrowsTo (s t : State) : Prop where
  hist   : s.hist <+: t.hist
  taken  : s.taken <+: t.taken
  params : t.params = s.params

/-- Equal observations and parameters are the least growth. -/
theorem GrowsTo.of_eq {s t : State} (hh : t.hist = s.hist) (ht : t.taken = s.taken) (hp : t.params = s.params) :
    GrowsTo s t :=
  ⟨hh ▸ List.prefix_rfl, ht ▸ List.prefix_rfl, hp⟩

theorem GrowsTo.refl (s : State) : GrowsTo s s := .of_eq rfl rfl rfl

theorem GrowsTo.emit {s t : State} {e : Event} (h : GrowsTo s t) : GrowsTo s (emit e t) :=
  ⟨h.hist.trans (List.prefix_append _ _), h.taken, h.params⟩

theorem GrowsTo.respond {s t : State} {c : CallerId} {r : Response} (h : GrowsTo s t) : GrowsTo s (respond c r t) :=
  .emit ⟨h.hist, h.taken, h.params⟩

theorem GrowsTo.exhaust {s t : State} {c : CallerId} (h : GrowsTo s t) : GrowsTo s (exhaust c t) :=
  .emit ⟨h.hist, h.taken, h.params⟩

theorem FramerMove.growsTo {d : Framed} {s t : State} (h : FramerMove d s t) : GrowsTo s t := by
  cases h with
  | stay => exact .refl s
  | accept => exact .of_eq rfl rfl rfl
  | exhaust => exact .exhaust (.refl s)
  | grant => exact .of_eq rfl rfl rfl
  | line => exact .emit (.of_eq rfl rfl rfl)
  | build => exact .of_eq rfl rfl rfl
  | submit => exact .emit (.of_eq rfl rfl rfl)
  | complete => exact .respond (.of_eq rfl rfl rfl)

theorem PackMove.growsTo {c : CallerId} {pol : AlignPolicy} {w : Nat} {bytes : List Byte} {s t : State}
    (h : PackMove c pol w bytes s t) : GrowsTo s t := by
  cases h with
  | stay => exact .refl s
  | invalid => exact .respond (.refl s)
  | packed => exact .respond (.refl s)
  | exhaust => exact .exhaust (.refl s)

theorem exec_growsTo {i : Instr} {s t : State} (h : exec i s = .next t) : GrowsTo s t := by
  rcases exec_cases i s with ⟨d, -, -, hd⟩ | ⟨pol, width, bytes, -, hp⟩
  · obtain rfl : framerStep d s = t := by simpa [hd] using h
    exact (framerStep_move d s).growsTo
  · obtain rfl : packStep s.turn pol (widthOperand width) bytes s = t := by simpa [hp] using h
    exact (packStep_move _ _ _ _ s).growsTo

theorem ServeMove.growsTo {c : CallerId} {s t : State} {o : Host.Outcome State Fault Refusal} (h : ServeMove c s o)
    (ho : o = .next t) : GrowsTo s t := by
  cases h with
  | stay =>
    cases ho
    exact .refl s
  | reject =>
    cases ho
    exact .respond (.refl s)
  | short => cases ho
  | run i => exact exec_growsTo ho

theorem StepMove.growsTo {s t : State} {o : Host.Outcome State Fault Refusal} (h : StepMove s o)
    (ho : o = .next t) : GrowsTo s t := by
  cases h with
  | serve c hm _ hs =>
    obtain ⟨hh, ht, hp⟩ := hs.growsTo ho
    exact ⟨hh, ht, hp⟩
  | issue c r =>
    cases ho
    exact .emit (.of_eq rfl rfl rfl)
  | take c r =>
    cases ho
    exact ⟨List.prefix_rfl, List.prefix_append _ _, rfl⟩
  | answer =>
    cases ho
    exact .emit (.of_eq rfl rfl rfl)
  | reset =>
    cases ho
    exact .emit (.of_eq rfl rfl rfl)
  | idle =>
    cases ho
    exact .of_eq rfl rfl rfl

/-- Settles O49: each move appends its event or its taken response, and a reset appends `Reset`. -/
theorem historyGrowsAndParametersStay : Obligations.HistoryGrowsAndParametersStay := by
  intro s t h
  obtain ⟨hh, ht, hp⟩ := (step_move s).growsTo h
  exact ⟨hh, ht, hp⟩

/-! ### Renamed error values (R9, R30): each operation commutes with a renaming -/

section Renaming

variable (ty : ErrType) (f : TErr → TErr)

@[simp] theorem renameErrors_params (s : State) :
    (renameErrors ty f s).params = { s.params with errType := ty } := rfl
@[simp] theorem renameErrors_seq (s : State) : (renameErrors ty f s).seq = s.seq := rfl
@[simp] theorem renameErrors_lock (s : State) : (renameErrors ty f s).lock = s.lock := rfl
@[simp] theorem renameErrors_tx (s : State) : (renameErrors ty f s).tx = s.tx := rfl
@[simp] theorem renameErrors_fatal (s : State) : (renameErrors ty f s).fatal = s.fatal := rfl
@[simp] theorem renameErrors_res (s : State) : (renameErrors ty f s).res = s.res.map (renameResult f) := rfl
@[simp] theorem renameErrors_cur (s : State) : (renameErrors ty f s).cur = s.cur := rfl
@[simp] theorem reqAt_renameErrors (c : CallerId) (s : State) : reqAt c (renameErrors ty f s) = reqAt c s := rfl
@[simp] theorem rspAt_renameErrors (c : CallerId) (s : State) :
    rspAt c (renameErrors ty f s) = (rspAt c s).map (renameResponse f) := by
  simp only [rspAt, List.getD_eq_getElem?_getD, renameErrors, List.getElem?_map]
  cases s.rsp[c]? <;> rfl

/-! The error type is the one parameter a renaming changes, and only the ANSWER step's guard reads it. -/

@[simp] theorem bufferFits_errType (p : Params) (n w : Nat) :
    bufferFits { p with errType := ty } n w = bufferFits p n w := rfl
@[simp] theorem framedFits_errType (p : Params) (d : Framed) :
    framedFits { p with errType := ty } d = framedFits p d := by
  cases d <;> rfl
@[simp] theorem buildTransaction_errType (p : Params) (d : Framed) :
    buildTransaction { p with errType := ty } d = buildTransaction p d := by
  cases d <;> rfl
@[simp] theorem buildWords_errType (p : Params) (d : Framed) :
    buildWords { p with errType := ty } d = buildWords p d := by
  cases d <;> rfl
@[simp] theorem receivedAfter_rename (p : Params) (tx : Transaction) (res : TResult) (k : Nat) :
    receivedAfter { p with errType := ty } tx (renameResult f res) k = receivedAfter p tx res k := by
  cases res <;> rfl
@[simp] theorem abandonedReceipt_renameErrors (k : Nat) (s : State) :
    abandonedReceipt k (renameErrors ty f s) = abandonedReceipt k s := rfl

/-! Slots, events and responses. -/

theorem renameErrors_emit (e : Event) (s : State) :
    renameErrors ty f (emit e s) = emit (renameEvent f e) (renameErrors ty f s) := by
  simp [renameErrors, emit]

theorem renameErrors_setReq (c : CallerId) (x : ReqSlot) (s : State) :
    renameErrors ty f (setReq c x s) = setReq c x (renameErrors ty f s) := rfl

theorem renameErrors_setRsp (c : CallerId) (x : Option Response) (s : State) :
    renameErrors ty f (setRsp c x s) = setRsp c (x.map (renameResponse f)) (renameErrors ty f s) := by
  simp [renameErrors, setRsp, List.map_set]

theorem renameErrors_respond (c : CallerId) (r : Response) (s : State) :
    renameErrors ty f (respond c r s) = respond c (renameResponse f r) (renameErrors ty f s) := by
  simp only [respond, renameErrors_emit, renameErrors_setRsp, renameErrors_setReq]
  rfl

theorem renameErrors_exhaust (c : CallerId) (s : State) :
    renameErrors ty f (exhaust c s) = exhaust c (renameErrors ty f s) :=
  renameErrors_emit ty f (.fatal c) { s with fatal := true }

theorem renameErrors_place (c : CallerId) (r : Request) (s : State) :
    renameErrors ty f (place c r s) = place c r (renameErrors ty f s) :=
  renameErrors_emit ty f (.issue c r) (setReq c (.pending r) s)

/-- COMPLETE returns the transport's result unchanged (R144), so its response is renamed with it. -/
theorem renameResponse_framedResponse (res : TResult) :
    renameResponse f (framedResponse res) = framedResponse (renameResult f res) := by
  cases res <;> rfl

/-! The Framer's steps. -/

theorem renameErrors_acceptStep (d : Framed) (s : State) :
    renameErrors ty f (acceptStep d s) = acceptStep d (renameErrors ty f s) := by
  simp only [acceptStep, renameErrors_params, framedFits_errType]
  by_cases hfit : framedFits s.params d = true
  · simp only [hfit, if_true, renameErrors_setReq]
  · simp only [hfit, if_false, renameErrors_exhaust, Bool.false_eq_true]

theorem renameErrors_grantStep (d : Framed) (s : State) :
    renameErrors ty f (grantStep d s) = grantStep d (renameErrors ty f s) := by
  simp only [grantStep, renameErrors_lock, renameErrors_seq]
  by_cases hfree : s.lock = .free ∧ s.seq = .idle
  · simp only [hfree, and_self, if_true]
    rfl
  · simp only [hfree, if_false]

theorem renameErrors_lineStep (d : Framed) (s : State) :
    renameErrors ty f (lineStep d s) = lineStep d (renameErrors ty f s) :=
  renameErrors_emit ty f (.setLine (framedCaller d) .command) { s with cl := .command, seq := .build }

theorem renameErrors_buildStep (d : Framed) (s : State) :
    renameErrors ty f (buildStep d s) = buildStep d (renameErrors ty f s) := by
  simp only [buildStep, renameErrors_params, buildTransaction_errType, buildWords_errType]
  rfl

theorem renameErrors_submitStep (d : Framed) (s : State) :
    renameErrors ty f (submitStep d s) = submitStep d (renameErrors ty f s) := by
  simp only [submitStep, renameErrors_tx]
  split
  next tx _ => exact renameErrors_emit ty f (.submit (framedCaller d) tx) { s with seq := .wait }
  next => rfl

theorem renameErrors_completeStep (d : Framed) (s : State) :
    renameErrors ty f (completeStep d s) = completeStep d (renameErrors ty f s) := by
  simp only [completeStep, renameErrors_res]
  cases s.res with
  | none => rfl
  | some res =>
    simp only [Option.map_some, renameErrors_respond, renameResponse_framedResponse]
    rfl

theorem renameErrors_activeStep (d : Framed) (s : State) :
    renameErrors ty f (activeStep d s) = activeStep d (renameErrors ty f s) := by
  simp only [activeStep, renameErrors_seq]
  cases s.seq with
  | idle => rfl
  | line => exact renameErrors_lineStep ty f d s
  | build => exact renameErrors_buildStep ty f d s
  | submit => exact renameErrors_submitStep ty f d s
  | wait => rfl
  | done => exact renameErrors_completeStep ty f d s

theorem renameErrors_framerStep (d : Framed) (s : State) :
    renameErrors ty f (framerStep d s) = framerStep d (renameErrors ty f s) := by
  simp only [framerStep, renameErrors_fatal, reqAt_renameErrors, renameErrors_cur]
  by_cases hf : s.fatal = true
  · simp only [hf, if_true]
  · simp only [hf, if_false, Bool.false_eq_true]
    cases reqAt (framedCaller d) s with
    | empty => rfl
    | pending r => exact renameErrors_acceptStep ty f d s
    | waiting d' => exact renameErrors_grantStep ty f d s
    | active =>
      by_cases hc : s.cur = some d
      · simpa only [hc, if_true] using renameErrors_activeStep ty f d s
      · simp only [hc, if_false]

/-! The Packer's step and the meanings. -/

theorem renameErrors_packStep (c : CallerId) (pol : AlignPolicy) (w : Nat) (bytes : List Byte) (s : State) :
    renameErrors ty f (packStep c pol w bytes s) = packStep c pol w bytes (renameErrors ty f s) := by
  simp only [packStep, renameErrors_fatal, reqAt_renameErrors, renameErrors_params, bufferFits_errType]
  by_cases hf : s.fatal = true
  · simp only [hf, if_true]
  · simp only [hf, if_false, Bool.false_eq_true]
    cases reqAt c s with
    | empty => rfl
    | waiting d => rfl
    | active => rfl
    | pending r =>
      cases pack bytes pol w with
      | invalidWidth => exact renameErrors_respond ty f c .invalidWidth s
      | words ws =>
        by_cases hfit : bufferFits s.params bytes.length w = true
        · simp only [hfit, if_true, renameErrors_respond, renameResponse]
        · simp only [hfit, if_false, renameErrors_exhaust, Bool.false_eq_true]

theorem exec_renameErrors (i : Instr) (s : State) :
    exec i (renameErrors ty f s) = renameOutcome ty f (exec i s) := by
  cases i with
  | send cmd => exact congrArg Host.Outcome.next (renameErrors_framerStep ty f (.send s.turn cmd) s).symm
  | sendp cmd pol bytes =>
    exact congrArg Host.Outcome.next (renameErrors_framerStep ty f (.sendp s.turn cmd pol bytes) s).symm
  | pack pol width bytes =>
    exact congrArg Host.Outcome.next (renameErrors_packStep ty f s.turn pol (widthOperand width) bytes s).symm

/-! The step of each agent. -/

theorem serve_renameErrors (c : CallerId) (s : State) :
    serve c (renameErrors ty f s) = renameOutcome ty f (serve c s) := by
  simp only [serve, renameErrors_fatal, reqAt_renameErrors, renameErrors_cur]
  by_cases hf : s.fatal = true
  · simp only [hf, if_true, renameOutcome]
  · simp only [hf, if_false, Bool.false_eq_true]
    cases reqAt c s with
    | empty => rfl
    | pending r =>
      dsimp only
      cases fetchRequest r with
      | illegal why => exact congrArg Host.Outcome.next (renameErrors_respond ty f c .illegalRequest s).symm
      | shortPayload => rfl
      | instr i => exact exec_renameErrors ty f i s
    | waiting d => exact exec_renameErrors ty f (framedInstr d) s
    | active =>
      cases s.cur with
      | none => rfl
      | some d =>
        by_cases hd : framedCaller d = c
        · simpa only [hd, if_true] using exec_renameErrors ty f (framedInstr d) s
        · simp only [hd, if_false, renameOutcome]

@[simp] theorem mayIssue_renameErrors (c : CallerId) (r : Request) (s : State) :
    mayIssue c r (renameErrors ty f s) = mayIssue c r s := by
  rw [Bool.eq_iff_iff]
  simp only [mayIssue, Bool.and_eq_true, decide_eq_true_eq]
  simp

theorem renameErrors_issueStep (c : CallerId) (r : Request) (s : State) :
    renameErrors ty f (issueStep c r s) = issueStep c r (renameErrors ty f s) := by
  simp only [issueStep, mayIssue_renameErrors]
  split
  · exact renameErrors_place ty f c r s
  · rfl

theorem renameErrors_takeStep (c : CallerId) (s : State) :
    renameErrors ty f (takeStep c s) = takeStep c (renameErrors ty f s) := by
  simp only [takeStep, rspAt_renameErrors]
  cases rspAt c s with
  | none => rfl
  | some r => simp [renameErrors, setRsp, List.map_set]

/-- The one step that reads `TErr`: it asks whether the drawn token is a value of it, and of both types it is. -/
theorem renameErrors_answerStep (res : TResult) (k : Nat) (s : State) (ha : resultAllowed s.params res = true)
    (hb : resultAllowed { s.params with errType := ty } (renameResult f res) = true) :
    renameErrors ty f (answerStep res k s) = answerStep (renameResult f res) k (renameErrors ty f s) := by
  simp only [answerStep, renameErrors_fatal, renameErrors_params, ha, hb, renameErrors_seq, renameErrors_cur,
    renameErrors_tx, receivedAfter_rename]
  split
  · rfl
  · split
    next d tx _ _ _ =>
      exact renameErrors_emit ty f (.result (framedCaller d) res)
        { s with res := some res, live := some (receivedAfter s.params tx res k), seq := .done }
    next => rfl

theorem renameErrors_resetStep (level : Level) (k : Nat) (s : State) :
    renameErrors ty f (resetStep level k s) = resetStep level k (renameErrors ty f s) := by
  simp only [resetStep, renameErrors_emit, abandonedReceipt_renameErrors]
  simp [renameErrors, renameEvent]

/-- A renaming that takes the values of one type into another takes each result of the first to one of the second. -/
theorem resultAllowed_rename {p : Params} (hf : ∀ e, isErrorOf p.errType e = true → isErrorOf ty (f e) = true)
    {res : TResult} (ha : resultAllowed p res = true) :
    resultAllowed { p with errType := ty } (renameResult f res) = true := by
  cases res with
  | ok => rfl
  | err e => exact hf e ha

theorem takeMove_renameErrors (m : Move) (s : State)
    (hf : ∀ e, isErrorOf s.params.errType e = true → isErrorOf ty (f e) = true)
    (ha : ∀ res k, m = .answer res k → resultAllowed s.params res = true) :
    takeMove (renameMove f m) (renameErrors ty f s) = renameOutcome ty f (takeMove m s) := by
  cases m with
  | serve c => exact serve_renameErrors ty f c { s with turn := c }
  | issue c r => exact congrArg Host.Outcome.next (renameErrors_issueStep ty f c r s).symm
  | take c => exact congrArg Host.Outcome.next (renameErrors_takeStep ty f c s).symm
  | answer res k =>
    have hres := ha res k rfl
    exact congrArg Host.Outcome.next
      (renameErrors_answerStep ty f res k s hres (resultAllowed_rename ty f hf hres)).symm
  | reset level k => exact congrArg Host.Outcome.next (renameErrors_resetStep ty f level k s).symm

theorem renameErrors_advance (s : State) : renameErrors ty f (advance s) = advance (renameErrors ty f s) := by
  simp [renameErrors, advance]

theorem nextMove_renameErrors {s : State} {m : Move} {rest : List Move} (hp : s.plan = m :: rest) :
    nextMove (renameErrors ty f s) = renameMove f (nextMove s) := by
  simp [nextMove, renameErrors, hp]

end Renaming

/-- Settles O50: a planned move is renamed with the state, and the step of every agent commutes with the renaming. -/
theorem noStepReadsErrorValues : Obligations.NoStepReadsErrorValues := by
  intro ty f s m rest hp hf ha
  have hm : nextMove s = m := by simp [nextMove, hp]
  unfold step
  rw [nextMove_renameErrors ty f hp, hm, ← renameErrors_advance]
  exact takeMove_renameErrors ty f m (advance s) hf ha

end Sys2Proof.Machine
end

section
/-! PROOFS of the state family (R20-R39, R157-R163, R228): the invariants that every step keeps, what each step changes
and leaves, and the codes of the state's outputs. -/

namespace Sys2Proof.Machine

open Sys2Proof.Safety

/-! ### Slots after an update -/

theorem reqAt_setReq_self {c : CallerId} {s : State} (x : ReqSlot) (h : reqAt c s ≠ .empty) :
    reqAt c (setReq c x s) = x := by
  simp [reqAt_setReq, lt_of_reqAt_ne_empty h]

theorem reqAt_setReq_ne {c c' : CallerId} (h : c' ≠ c) (x : ReqSlot) (s : State) :
    reqAt c' (setReq c x s) = reqAt c' s := by
  simp [reqAt_setReq, h]

theorem rspAt_setRsp_ne {c c' : CallerId} (h : c' ≠ c) (x : Option Response) (s : State) :
    rspAt c' (setRsp c x s) = rspAt c' s := by
  simp [rspAt_setRsp, h]

theorem reqAt_setReq_empty (c : CallerId) (s : State) : reqAt c (setReq c .empty s) = .empty := by
  by_cases h : reqAt c s = .empty
  · simp [reqAt_setReq, h]
  · exact reqAt_setReq_self _ h

/-- A delivered response leaves its caller without a request (R14, R27). -/
theorem reqAt_respond_self (c : CallerId) (r : Response) (s : State) : reqAt c (respond c r s) = .empty :=
  reqAt_setReq_empty c s

theorem reqAt_respond_ne {c c' : CallerId} (h : c' ≠ c) (r : Response) (s : State) :
    reqAt c' (respond c r s) = reqAt c' s := reqAt_setReq_ne h _ s

theorem rspAt_respond_ne {c c' : CallerId} (h : c' ≠ c) (r : Response) (s : State) :
    rspAt c' (respond c r s) = rspAt c' s := rspAt_setRsp_ne h _ (setReq c .empty s)

@[simp] theorem reqAt_resetStep (c : CallerId) (level : Level) (k : Nat) (s : State) :
    reqAt c (resetStep level k s) = .empty := getD_replicate _ _ _

@[simp] theorem rspAt_resetStep (c : CallerId) (level : Level) (k : Nat) (s : State) :
    rspAt c (resetStep level k s) = none := getD_replicate _ _ _

/-! ### What serving a caller leaves behind -/

/-- A framed request is its caller and its instruction. -/
theorem framed_ext {d e : Framed} (hc : framedCaller d = framedCaller e) (hi : framedInstr d = framedInstr e) :
    d = e := by
  cases d <;> cases e <;> simp_all [framedCaller, framedInstr]

/-- Only a pending request is an instruction of the Packer: WAITING and ACTIVE are framed requests. -/
theorem HeldBy.pending_of_pack {c : CallerId} {s : State} {pol : AlignPolicy} {width : Byte} {bytes : List Byte}
    (h : HeldBy c s (.pack pol width bytes)) :
    ∃ r, reqAt c s = .pending r ∧ fetchRequest r = .instr (.pack pol width bytes) := by
  cases h with
  | pending r hs hi => exact ⟨r, hs, hi⟩
  | waiting d hs hi => cases d <;> cases hi
  | active d hs hc hd hi => cases d <;> cases hi

/-- A pending slot holds an instruction by decoding it. -/
theorem HeldBy.fetch_of_pending {c : CallerId} {s : State} {i : Instr} {r : Request} (h : HeldBy c s i)
    (hs : reqAt c s = .pending r) : fetchRequest r = .instr i := by
  cases h with
  | pending r' hs' hi => simp_all
  | waiting d hs' hi => simp_all
  | active d hs' hc hd hi => simp_all

/-- Everything that serving caller `c` can leave behind when it answers a state: the step of the Framer or of the
Packer is that of an instruction which `c`'s slot holds. -/
inductive Served (c : CallerId) (s : State) : State → Prop where
  | stay : Served c s s
  | reject (r : Request) (hs : reqAt c s = .pending r) : Served c s (respond c .illegalRequest s)
  | framed (d : Framed) (t : State) (hd : framedCaller d = c) (hi : HeldBy c s (framedInstr d))
      (h : FramerMove d s t) : Served c s t
  | packed (pol : AlignPolicy) (width : Byte) (bytes : List Byte) (t : State)
      (hi : HeldBy c s (.pack pol width bytes)) (h : PackMove c pol (widthOperand width) bytes s t) : Served c s t

theorem ServeMove.served {c : CallerId} {s t : State} {o : Host.Outcome State Fault Refusal} (h : ServeMove c s o)
    (hc : s.turn = c) (ho : o = .next t) : Served c s t := by
  cases h with
  | stay =>
    cases ho
    exact .stay
  | reject r why hf hs =>
    cases ho
    exact .reject r hs
  | short => cases ho
  | run i hf hi =>
    rcases exec_cases i s with ⟨d, hd, rfl, he⟩ | ⟨pol, width, bytes, rfl, he⟩
    · obtain rfl : framerStep d s = t := by simpa [he] using ho
      exact .framed d _ (hd.trans hc) hi (framerStep_move d s)
    · obtain rfl : packStep s.turn pol (widthOperand width) bytes s = t := by simpa [he] using ho
      exact .packed pol width bytes _ hi (hc ▸ packStep_move _ _ _ _ s)

/-! ### Predicates that every step keeps -/

/-- `P` is kept by each thing an agent can do, and does not look at the schedule (log 1, 2, 5). -/
structure KeptByMoves (P : State → Prop) : Prop where
  scheduled : ∀ {s} (plan : List Move) (draws : Nat) (turn : CallerId), P s →
    P { s with plan := plan, draws := draws, turn := turn }
  rejected : ∀ {c s r}, P s → reqAt c s = .pending r → P (respond c .illegalRequest s)
  framed : ∀ {d s t}, P s → HeldBy (framedCaller d) s (framedInstr d) → FramerMove d s t → P t
  packed : ∀ {c pol w bytes s t}, P s → PackMove c pol w bytes s t → P t
  issued : ∀ {c : CallerId} {r : Request} {s : State}, P s → c < s.params.nCallers → reqAt c s = .empty →
    rspAt c s = none → r.wellFormed = true → P (place c r s)
  taken : ∀ {c r s}, P s → rspAt c s = some r → P { setRsp c none s with taken := s.taken ++ [(c, r)] }
  answered : ∀ {d tx res s} (k : Nat), P s → resultAllowed s.params res = true → s.seq = .wait → s.cur = some d →
    s.tx = some tx → P (emit (.result (framedCaller d) res)
      { s with res := some res, live := some (receivedAfter s.params tx res k), seq := .done })
  reset : ∀ {s} (level : Level) (k : Nat), P s → P (resetStep level k s)

theorem KeptByMoves.served {P : State → Prop} (keeps : KeptByMoves P) {c : CallerId} {s t : State} (hs : P s)
    (h : Served c s t) : P t := by
  cases h with
  | stay => exact hs
  | reject r hr => exact keeps.rejected hs hr
  | framed d _ hd hi h => exact keeps.framed hs (hd ▸ hi) h
  | packed pol width bytes _ hi h => exact keeps.packed hs h

theorem KeptByMoves.stepMove {P : State → Prop} (keeps : KeptByMoves P) {s t : State}
    {o : Host.Outcome State Fault Refusal} (hs : P s) (h : StepMove s o) (ho : o = .next t) : P t := by
  have ha : P (advance s) := keeps.scheduled _ _ _ hs
  cases h with
  | serve c hm _ h => exact keeps.served (keeps.scheduled _ _ _ hs) (h.served rfl ho)
  | issue c r hm hc hq hp hr =>
    cases ho
    exact keeps.issued ha hc hq hp hr
  | take c r hm hp =>
    cases ho
    exact keeps.taken ha hp
  | answer res k d tx hm hf hok hq hc ht =>
    cases ho
    exact keeps.answered k ha hok hq hc ht
  | reset level k hm =>
    cases ho
    exact keeps.reset level k ha
  | idle =>
    cases ho
    exact ha

/-- What the moves keep, every step keeps. -/
theorem KeptByMoves.step {P : State → Prop} (keeps : KeptByMoves P) {s t : State} (hs : P s) (h : step s = .next t) :
    P t := keeps.stepMove hs (step_move s) h

end Sys2Proof.Machine

namespace Sys2Proof.Safety

open Sys2Proof.Machine

/-! ### The Framer's registers, phase by phase (R39) -/

section Phases

variable {s : State}

theorem framerOk_idle (hq : s.seq = .idle) :
    FramerOk s ↔ s.lock = .free ∧ s.cur = none ∧ Unbuilt s ∧ Unanswered s := by simp only [FramerOk, hq]
theorem framerOk_line (hq : s.seq = .line) : FramerOk s ↔ ∃ d, InCall d s ∧ Unbuilt s ∧ Unanswered s := by
  simp only [FramerOk, hq]
theorem framerOk_build (hq : s.seq = .build) : FramerOk s ↔ ∃ d, InCall d s ∧ Unbuilt s ∧ Unanswered s := by
  simp only [FramerOk, hq]
theorem framerOk_submit (hq : s.seq = .submit) : FramerOk s ↔ ∃ d, InCall d s ∧ Built d s ∧ Unanswered s := by
  simp only [FramerOk, hq]
theorem framerOk_wait (hq : s.seq = .wait) : FramerOk s ↔ ∃ d, InCall d s ∧ Built d s ∧ Unanswered s := by
  simp only [FramerOk, hq]
theorem framerOk_done (hq : s.seq = .done) : FramerOk s ↔ ∃ d, InCall d s ∧ Built d s ∧ Answered d s := by
  simp only [FramerOk, hq]

end Phases

/-- There is one call in `CUR`. -/
theorem InCall.eq_of_cur {d e : Framed} {s : State} (h : InCall e s) (hc : s.cur = some d) : e = d :=
  Option.some.inj (h.cur.symm.trans hc)

/-- What the Framer holds about a call is the same in both states. -/
structure SameFramer (s t : State) : Prop where
  params : t.params = s.params
  seq    : t.seq = s.seq
  lock   : t.lock = s.lock
  cur    : t.cur = s.cur
  tx     : t.tx = s.tx
  wbuf   : t.wbuf = s.wbuf
  res    : t.res = s.res
  live   : t.live = s.live

/-- The Framer's registers decide `FramerOk`, as long as the active slot stays. -/
theorem FramerOk.of_sameFramer {s t : State} (h : FramerOk s) (e : SameFramer s t)
    (ha : ∀ c, reqAt c s = .active → reqAt c t = .active) : FramerOk t := by
  have hin : ∀ {d}, InCall d s → InCall d t := fun i =>
    ⟨e.cur.trans i.cur, e.lock.trans i.lock, ha _ i.active, e.params ▸ i.fits⟩
  simp only [FramerOk, Unbuilt, Built, Unanswered, Answered, e.params, e.seq, e.lock, e.cur, e.tx, e.wbuf, e.res,
    e.live] at h ⊢
  revert h
  cases s.seq with
  | idle => exact id
  | line => exact fun ⟨d, hd, rest⟩ => ⟨d, hin hd, rest⟩
  | build => exact fun ⟨d, hd, rest⟩ => ⟨d, hin hd, rest⟩
  | submit => exact fun ⟨d, hd, rest⟩ => ⟨d, hin hd, rest⟩
  | wait => exact fun ⟨d, hd, rest⟩ => ⟨d, hin hd, rest⟩
  | done => exact fun ⟨d, hd, rest⟩ => ⟨d, hin hd, rest⟩

/-! ### The slots of one caller -/

/-- The parameters, the number of slots and every slot of a caller other than `c` are the same in both states. -/
structure SameOthers (c : CallerId) (s t : State) : Prop where
  params    : t.params = s.params
  reqLength : t.req.length = s.req.length
  rspLength : t.rsp.length = s.rsp.length
  reqAt_ne  : ∀ {c'}, c' ≠ c → reqAt c' t = reqAt c' s
  rspAt_ne  : ∀ {c'}, c' ≠ c → rspAt c' t = rspAt c' s

section Slots

variable {c : CallerId} {s t : State}

/-- What a slot may hold depends on the caller's response, on the parameters and, if it is ACTIVE, on `CUR`. -/
theorem SlotOk.congr {x : ReqSlot} (h : SlotOk s c x) (hr : rspAt c t = rspAt c s) (hp : t.params = s.params)
    (hc : x = .active → t.cur = s.cur) : SlotOk t c x := by
  cases x with
  | empty => trivial
  | pending r => exact ⟨hr.trans h.1, h.2⟩
  | waiting d => exact ⟨hr.trans h.1, h.2.1, hp ▸ h.2.2⟩
  | active => exact ⟨hr.trans h.1, hc rfl ▸ h.2⟩

theorem BlockInv.slot {x : ReqSlot} (h : BlockInv s) (hs : reqAt c s = x) : SlotOk s c x := hs ▸ h.slots c

/-- A caller with a request outstanding has no response waiting (R27). -/
theorem BlockInv.reqAt_eq_empty {r : Response} (h : BlockInv s) (hr : rspAt c s = some r) : reqAt c s = .empty := by
  have hslot := h.slots c
  revert hslot
  cases reqAt c s with
  | empty => exact fun _ => rfl
  | pending q => exact fun ⟨hn, _⟩ => absurd (hn.symm.trans hr) nofun
  | waiting d => exact fun ⟨hn, _⟩ => absurd (hn.symm.trans hr) nofun
  | active => exact fun ⟨hn, _⟩ => absurd (hn.symm.trans hr) nofun

/-- An ACTIVE slot is that of the caller in `CUR` (R27, R35). -/
theorem BlockInv.eq_of_active {d : Framed} (h : BlockInv s) (hs : reqAt c s = .active) (hc : s.cur = some d) :
    framedCaller d = c := by
  obtain ⟨-, e, he, hec⟩ := h.slot hs
  rwa [Option.some.inj (hc.symm.trans he)]

/-- A step that leaves the other callers' slots keeps the invariant if `c`'s slot holds what it may and the Framer's
registers agree with its phase; `CUR` may change if no other caller is ACTIVE. -/
theorem BlockInv.of_sameOthers (h : BlockInv s) (e : SameOthers c s t)
    {x : ReqSlot}
    (hcur : ∀ c', c' ≠ c → reqAt c' s = .active → t.cur = s.cur) (hx : reqAt c t = x) (hslot : SlotOk t c x)
    (hf : FramerOk t) : BlockInv t where
  reqLength := by rw [e.reqLength, e.params, h.reqLength]
  rspLength := by rw [e.rspLength, e.params, h.rspLength]
  slots c' := by
    by_cases hc : c' = c
    · subst hc hx
      exact hslot
    · rw [e.reqAt_ne hc]
      exact (h.slots c').congr (e.rspAt_ne hc) e.params (hcur c' hc)
  framer := hf

/-- The slots of a caller that is not ACTIVE may change to anything they may hold: the Framer does not see them. -/
theorem BlockInv.of_notActive {x : ReqSlot} (h : BlockInv s) (e : SameOthers c s t)
    (hsame : SameFramer s t) (hna : reqAt c s ≠ .active) (hx : reqAt c t = x) (hslot : SlotOk t c x) : BlockInv t :=
  h.of_sameOthers e (fun _ _ _ => hsame.cur) hx hslot
    (h.framer.of_sameFramer hsame fun c' hc' => by rw [e.reqAt_ne fun hc => hna (hc ▸ hc'), hc'])

/-- A step that moves the Framer's registers, but not `CUR`, leaves every slot as it is. -/
theorem BlockInv.of_sameSlots (h : BlockInv s) (hp : t.params = s.params) (hq : t.req = s.req) (hr : t.rsp = s.rsp)
    (hc : t.cur = s.cur) (hf : FramerOk t) : BlockInv t where
  reqLength := by rw [hq, hp, h.reqLength]
  rspLength := by rw [hr, hp, h.rspLength]
  slots c := by
    have hreq : reqAt c t = reqAt c s := by simp only [reqAt, hq]
    exact hreq ▸ (h.slots c).congr (by simp only [rspAt, hr]) hp fun _ => hc
  framer := hf

end Slots

theorem sameOthers_respond (c : CallerId) (r : Response) (s : State) : SameOthers c s (respond c r s) :=
  ⟨rfl, List.length_set, List.length_set, fun h => reqAt_respond_ne h r s, fun h => rspAt_respond_ne h r s⟩

theorem sameOthers_setReq (c : CallerId) (x : ReqSlot) (s : State) : SameOthers c s (setReq c x s) :=
  ⟨rfl, List.length_set, rfl, fun h => reqAt_setReq_ne h x s, fun _ => rfl⟩

/-! ### Each step keeps the invariant of the block (R157-R163) -/

section Steps

variable {c : CallerId} {d : Framed} {r : Request} {s : State}

/-- A response that no transaction precedes (R95) empties a slot that is not ACTIVE. -/
theorem BlockInv.respond (h : BlockInv s) (hs : reqAt c s = .pending r) (x : Response) : BlockInv (respond c x s) :=
  h.of_notActive (sameOthers_respond c x s) ⟨rfl, rfl, rfl, rfl, rfl, rfl, rfl, rfl⟩ (by simp [hs])
    (reqAt_respond_self c x s) trivial

/-- A halt leaves the registers and the slots (R184). -/
theorem BlockInv.exhaust (h : BlockInv s) (c : CallerId) : BlockInv (exhaust c s) :=
  h.of_sameSlots rfl rfl rfl rfl (h.framer.of_sameFramer ⟨rfl, rfl, rfl, rfl, rfl, rfl, rfl, rfl⟩ fun _ => id)

/-- ISSUE (R27): both slots of the caller were EMPTY. -/
theorem BlockInv.place (h : BlockInv s) (hc : c < s.params.nCallers) (hs : reqAt c s = .empty)
    (hp : rspAt c s = none) (hr : r.wellFormed = true) : BlockInv (place c r s) := by
  have hself : reqAt c (Machine.place c r s) = .pending r :=
    (reqAt_setReq c c _ s).trans (if_pos ⟨rfl, h.reqLength ▸ hc⟩)
  exact h.of_notActive ⟨rfl, List.length_set, rfl, fun hne => reqAt_setReq_ne hne _ s, fun _ => rfl⟩
    ⟨rfl, rfl, rfl, rfl, rfl, rfl, rfl, rfl⟩ (by simp [hs]) hself ⟨hp, hr⟩

/-- TAKE (R27): a response that waits leaves an EMPTY request slot behind. -/
theorem BlockInv.take {x : Response} (h : BlockInv s) (hx : rspAt c s = some x) :
    BlockInv { setRsp c none s with taken := s.taken ++ [(c, x)] } := by
  have hs := h.reqAt_eq_empty hx
  exact h.of_notActive ⟨rfl, rfl, List.length_set, fun _ => rfl, fun hne => rspAt_setRsp_ne hne none s⟩
    ⟨rfl, rfl, rfl, rfl, rfl, rfl, rfl, rfl⟩ (by simp [hs]) hs trivial

/-- ACCEPT (R157): a request passes from PENDING to WAITING with its buffer checked. -/
theorem BlockInv.accept (h : BlockInv s) (hs : reqAt (framedCaller d) s = .pending r)
    (hfit : framedFits s.params d = true) : BlockInv (setReq (framedCaller d) (.waiting d) s) := by
  obtain ⟨hnone, -⟩ := h.slot hs
  exact h.of_notActive (sameOthers_setReq _ _ s) ⟨rfl, rfl, rfl, rfl, rfl, rfl, rfl, rfl⟩ (by simp [hs])
    (reqAt_setReq_self _ (by simp [hs])) ⟨hnone, rfl, hfit⟩

/-- GRANT (R158): in an idle block no slot is ACTIVE, so the call granted is the only one. -/
theorem BlockInv.grant (h : BlockInv s) (hs : reqAt (framedCaller d) s = .waiting d) (hq : s.seq = .idle) :
    BlockInv { setReq (framedCaller d) .active s with
      lock := .held (framedCaller d), cur := some d, seq := .line } := by
  obtain ⟨hnone, -, hfits⟩ := h.slot hs
  obtain ⟨-, hcur, hunbuilt, hunanswered⟩ := (framerOk_idle hq).1 h.framer
  have hself := reqAt_setReq_self .active (show reqAt (framedCaller d) s ≠ .empty by simp [hs])
  refine h.of_sameOthers (c := framedCaller d)
    ⟨rfl, List.length_set, rfl, fun hne => reqAt_setReq_ne hne _ s, fun _ => rfl⟩ ?_ hself ⟨hnone, d, rfl, rfl⟩ ?_
  · intro c' _ ha
    obtain ⟨-, e, he, -⟩ := h.slot ha
    exact absurd (hcur.symm.trans he) nofun
  · exact (framerOk_line rfl).2 ⟨d, ⟨rfl, rfl, hself, hfits⟩, hunbuilt, hunanswered⟩

/-- LINE (R159). -/
theorem BlockInv.line (h : BlockInv s) (hq : s.seq = .line) :
    BlockInv (emit (.setLine (framedCaller d) .command) { s with cl := .command, seq := .build }) := by
  obtain ⟨e, hin, hrest⟩ := (framerOk_line hq).1 h.framer
  exact h.of_sameSlots rfl rfl rfl rfl
    ((framerOk_build rfl).2 ⟨e, ⟨hin.cur, hin.lock, hin.active, hin.fits⟩, hrest⟩)

/-- BUILD (R160): the buffer was empty, so it holds the words of the call. -/
theorem BlockInv.build (h : BlockInv s) (hc : s.cur = some d) (hq : s.seq = .build) :
    BlockInv { s with
      wbuf := writeBuffer (buildWords s.params d) s.wbuf
      tx := some (buildTransaction s.params d), seq := .submit } := by
  obtain ⟨e, hin, ⟨-, hwbuf⟩, hunanswered⟩ := (framerOk_build hq).1 h.framer
  obtain rfl := hin.eq_of_cur hc
  exact h.of_sameSlots rfl rfl rfl rfl ((framerOk_submit rfl).2
    ⟨e, ⟨hin.cur, hin.lock, hin.active, hin.fits⟩, ⟨rfl, by rw [hwbuf, writeBuffer_empty]⟩, hunanswered⟩)

/-- SUBMIT (R161). -/
theorem BlockInv.submit {tx : Transaction} (h : BlockInv s) (hq : s.seq = .submit) :
    BlockInv (emit (.submit (framedCaller d) tx) { s with seq := .wait }) := by
  obtain ⟨e, hin, hrest⟩ := (framerOk_submit hq).1 h.framer
  exact h.of_sameSlots rfl rfl rfl rfl
    ((framerOk_wait rfl).2 ⟨e, ⟨hin.cur, hin.lock, hin.active, hin.fits⟩, hrest⟩)

/-- The device receives the beginning of the stream (R169), after `OK` all of it (R166). -/
theorem receivedAfter_prefix (p : Params) (tx : Transaction) (res : TResult) (k : Nat) :
    receivedAfter p tx res k <+: transactionStream p tx := by
  cases res with
  | ok => exact List.prefix_rfl
  | err e => exact List.take_prefix k _

/-- ANSWER (R162): the transaction in `TX` is the one BUILD made of the call. -/
theorem BlockInv.answer {tx : Transaction} (h : BlockInv s) (hq : s.seq = .wait) (ht : s.tx = some tx)
    (res : TResult) (k : Nat) :
    BlockInv (emit (.result (framedCaller d) res)
      { s with res := some res, live := some (receivedAfter s.params tx res k), seq := .done }) := by
  obtain ⟨e, hin, hbuilt, -⟩ := (framerOk_wait hq).1 h.framer
  obtain rfl := Option.some.inj (ht.symm.trans hbuilt.1)
  exact h.of_sameSlots rfl rfl rfl rfl ((framerOk_done rfl).2
    ⟨e, ⟨hin.cur, hin.lock, hin.active, hin.fits⟩, hbuilt, res, _, rfl, rfl, receivedAfter_prefix _ _ _ _,
      fun hok => by rw [hok]; rfl⟩)

/-- COMPLETE (R163): the one ACTIVE slot becomes EMPTY and everything is released. -/
theorem BlockInv.complete (h : BlockInv s) (hc : s.cur = some d) (x : Response) (device : List (List Byte)) :
    BlockInv (Machine.respond (framedCaller d) x
      { s with
        wbuf := [], tx := none, res := none, cur := none, lock := .free, seq := .idle
        device := device, live := none }) := by
  refine h.of_sameOthers (c := framedCaller d) ⟨rfl, List.length_set, List.length_set,
    fun hne => reqAt_respond_ne hne x _, fun hne => rspAt_respond_ne hne x _⟩ ?_ (reqAt_respond_self _ _ _) trivial ?_
  · exact fun c' hne ha => absurd (h.eq_of_active ha hc).symm hne
  · exact (framerOk_idle rfl).2 ⟨rfl, rfl, ⟨rfl, rfl⟩, ⟨rfl, rfl⟩⟩

/-- RESET (R210), from every state. -/
theorem blockInv_resetStep (level : Level) (k : Nat) (s : State) : BlockInv (resetStep level k s) where
  reqLength := List.length_replicate
  rspLength := List.length_replicate
  slots c := by
    rw [reqAt_resetStep]
    trivial
  framer := (framerOk_idle rfl).2 ⟨rfl, rfl, ⟨rfl, rfl⟩, ⟨rfl, rfl⟩⟩

end Steps

/-- A caller that waits was accepted with the call its slot holds (R157), so GRANT gives that call the lock. -/
theorem BlockInv.waiting_eq {d e : Framed} {s : State} (h : BlockInv s)
    (hi : HeldBy (framedCaller d) s (framedInstr d)) (hs : reqAt (framedCaller d) s = .waiting e) : e = d := by
  obtain ⟨-, hcaller, -⟩ := h.slot hs
  cases hi with
  | pending r hs' => exact absurd (hs.symm.trans hs') nofun
  | active e' hs' => exact absurd (hs.symm.trans hs') nofun
  | waiting e' hs' hi =>
    obtain rfl := ReqSlot.waiting.inj (hs.symm.trans hs')
    exact framed_ext hcaller hi

/-- Every move keeps the invariant of the block. -/
theorem blockInv_keptByMoves : KeptByMoves BlockInv where
  scheduled _ _ _ h := ⟨h.reqLength, h.rspLength, h.slots,
    h.framer.of_sameFramer ⟨rfl, rfl, rfl, rfl, rfl, rfl, rfl, rfl⟩ fun _ => id⟩
  rejected h hs := h.respond hs _
  framed h hi hm := by
    cases hm with
    | stay => exact h
    | accept r hf hs hfit => exact h.accept hs hfit
    | exhaust => exact h.exhaust _
    | grant e hf hs hl hq =>
      obtain rfl := h.waiting_eq hi hs
      exact h.grant hs hq
    | line hf hs hc hq => exact h.line hq
    | build hf hs hc hq => exact h.build hc hq
    | submit tx hf hs hc hq => exact h.submit hq
    | complete res hf hs hc => exact h.complete hc _ _
  packed h hm := by
    cases hm with
    | stay => exact h
    | invalid r hf hs => exact h.respond hs _
    | packed r hf hs => exact h.respond hs _
    | exhaust => exact h.exhaust _
  issued h hc hs hp hr := h.place hc hs hp hr
  taken h hx := h.take hx
  answered k h _ hq _ ht := h.answer hq ht _ k
  reset level k _ := blockInv_resetStep level k _

/-- Settles O52: each agent's step keeps the slots in agreement with their callers and the Framer's registers in
agreement with its phase. -/
theorem stepKeepsInvariant : Obligations.StepKeepsInvariant := fun _ _ hs h => blockInv_keptByMoves.step hs h

end Sys2Proof.Safety
end

section
/-! PROOFS of the state family, continued: the history's agreement with the slots, the control line and the
observation (R23, R27, R33, R228), and what the invariant says of a state (R35, R39). -/

namespace Sys2Proof.Safety

open Sys2Proof.Machine

/-! ### Open calls (R27, R62) -/

section OpenCalls

variable {c : CallerId} {s t : State}

@[simp] theorem isOpen_append (c : CallerId) (hist : List Event) (e : Event) :
    isOpen c (hist ++ [e]) = openNext c (isOpen c hist) e := by
  simp only [isOpen, List.foldl_append, List.foldl_cons, List.foldl_nil]

/-- An event that opens and closes no call, beside slots that are EMPTY where they were. -/
theorem OpenCalls.congr (h : OpenCalls s) (hq : ∀ c, reqAt c t = .empty ↔ reqAt c s = .empty)
    (ho : ∀ c, isOpen c t.hist = isOpen c s.hist) : OpenCalls t := fun c => by
  rw [Ne, hq c, ho c]
  exact h c

/-- A slot that is filled stays filled (R27: PENDING, WAITING, ACTIVE). -/
theorem reqAt_setReq_eq_empty_iff {x : ReqSlot} (hs : reqAt c s ≠ .empty) (hx : x ≠ .empty) (c' : CallerId) :
    reqAt c' (setReq c x s) = .empty ↔ reqAt c' s = .empty := by
  by_cases h : c' = c
  · subst h
    simp [reqAt_setReq_self x hs, hs, hx]
  · rw [reqAt_setReq_ne h]

/-- A response closes its caller's call and empties its slot (R14). -/
theorem OpenCalls.respond (h : OpenCalls s) (c : CallerId) (r : Response) : OpenCalls (respond c r s) := fun c' => by
  by_cases hc : c' = c
  · subst hc
    simp [reqAt_respond_self, openNext]
  · have hne : c ≠ c' := fun e => hc e.symm
    simpa [reqAt_respond_ne hc, openNext, hne] using h c'

/-- An issue opens its caller's call and fills its slot (R27). -/
theorem OpenCalls.place (h : OpenCalls s) (hc : c < s.req.length) (r : Request) : OpenCalls (place c r s) := fun c' => by
  by_cases hcc : c' = c
  · subst hcc
    have hself : reqAt c' (Machine.place c' r s) = .pending r := (reqAt_setReq c' c' _ s).trans (if_pos ⟨rfl, hc⟩)
    simp [hself, openNext]
  · have hne : c ≠ c' := fun e => hcc e.symm
    have hother : reqAt c' (Machine.place c r s) = reqAt c' s := reqAt_setReq_ne hcc _ s
    simpa [hother, openNext, hne] using h c'

/-- A reset closes every call and empties every slot (R210). -/
theorem openCalls_resetStep (level : Level) (k : Nat) (s : State) : OpenCalls (resetStep level k s) := fun c => by
  have hhist : (resetStep level k s).hist = s.hist ++ [.reset] := rfl
  simp [hhist, openNext]

theorem OpenCalls.framerMove {d : Framed} (h : OpenCalls s) (hm : FramerMove d s t) : OpenCalls t := by
  cases hm with
  | stay | build => exact h
  | accept r hf hs => exact h.congr (reqAt_setReq_eq_empty_iff (by simp [hs]) nofun) fun _ => rfl
  | grant e hf hs => exact h.congr (reqAt_setReq_eq_empty_iff (by simp [hs]) nofun) fun _ => rfl
  | exhaust | line | submit => exact h.congr (fun _ => Iff.rfl) fun _ => isOpen_append _ _ _
  | complete => exact OpenCalls.respond h _ _

theorem OpenCalls.packMove {pol : AlignPolicy} {w : Nat} {bytes : List Byte} (h : OpenCalls s)
    (hm : PackMove c pol w bytes s t) : OpenCalls t := by
  cases hm with
  | stay => exact h
  | invalid | packed => exact h.respond _ _
  | exhaust => exact h.congr (fun _ => Iff.rfl) fun _ => isOpen_append _ _ _

end OpenCalls

/-- The open calls are kept beside the invariant of the block, which gives every caller a slot to issue into. -/
theorem blockInv_openCalls_keptByMoves : KeptByMoves fun s => BlockInv s ∧ OpenCalls s where
  scheduled _ _ _ h := ⟨blockInv_keptByMoves.scheduled _ _ _ h.1, h.2⟩
  rejected h hs := ⟨blockInv_keptByMoves.rejected h.1 hs, h.2.respond _ _⟩
  framed h hi hm := ⟨blockInv_keptByMoves.framed h.1 hi hm, h.2.framerMove hm⟩
  packed h hm := ⟨blockInv_keptByMoves.packed h.1 hm, h.2.packMove hm⟩
  issued h hc hs hp hr := ⟨blockInv_keptByMoves.issued h.1 hc hs hp hr, h.2.place (h.1.reqLength.symm ▸ hc) _⟩
  taken h hx := ⟨blockInv_keptByMoves.taken h.1 hx, h.2⟩
  answered k h hok hq hc ht := ⟨blockInv_keptByMoves.answered k h.1 hok hq hc ht,
    h.2.congr (fun _ => Iff.rfl) fun _ => isOpen_append _ _ _⟩
  reset level k h := ⟨blockInv_keptByMoves.reset level k h.1, openCalls_resetStep level k _⟩

/-- Settles O56: an issue fills the slot it opens, a response and a reset empty the slots they close. -/
theorem stepKeepsOpenCalls : Obligations.StepKeepsOpenCalls := fun _ _ hb ho h =>
  (blockInv_openCalls_keptByMoves.step ⟨hb, ho⟩ h).2

/-! ### The control line (R23, R33, R146) -/

section Line

variable {s t : State}

@[simp] theorem lineKnown_issue (hist : List Event) (c : CallerId) (r : Request) :
    lineKnown (hist ++ [.issue c r]) = lineKnown hist := by simp [lineKnown]
@[simp] theorem lineKnown_submit (hist : List Event) (c : CallerId) (tx : Transaction) :
    lineKnown (hist ++ [.submit c tx]) = lineKnown hist := by simp [lineKnown]
@[simp] theorem lineKnown_result (hist : List Event) (c : CallerId) (res : TResult) :
    lineKnown (hist ++ [.result c res]) = lineKnown hist := by simp [lineKnown]
@[simp] theorem lineKnown_respond (hist : List Event) (c : CallerId) (r : Response) :
    lineKnown (hist ++ [.respond c r]) = lineKnown hist := by simp [lineKnown]
@[simp] theorem lineKnown_fatal (hist : List Event) (c : CallerId) :
    lineKnown (hist ++ [.fatal c]) = lineKnown hist := by simp [lineKnown]
@[simp] theorem lineKnown_reset (hist : List Event) : lineKnown (hist ++ [.reset]) = false := by simp [lineKnown]

theorem LineOk.congr (h : LineOk s) (hk : lineKnown t.hist = lineKnown s.hist) (hc : t.cl = s.cl) : LineOk t :=
  fun hl => hc.trans (h (hk ▸ hl))

/-- After a reset the line is not known (I1). -/
theorem lineOk_resetStep (level : Level) (k : Nat) (s : State) : LineOk (resetStep level k s) := fun hk =>
  absurd ((lineKnown_reset s.hist).symm.trans hk) nofun

end Line

/-- The LINE step drives COMMAND, a reset forgets the line, and no other move touches it. -/
theorem lineOk_keptByMoves : KeptByMoves LineOk where
  scheduled _ _ _ h := h
  rejected h _ := h.congr (lineKnown_respond _ _ _) rfl
  framed h _ hm := by
    cases hm with
    | stay | accept | grant | build => exact h
    | exhaust => exact h.congr (lineKnown_fatal _ _) rfl
    | line => exact fun _ => rfl
    | submit => exact h.congr (lineKnown_submit _ _ _) rfl
    | complete => exact h.congr (lineKnown_respond _ _ _) rfl
  packed h hm := by
    cases hm with
    | stay => exact h
    | invalid | packed => exact h.congr (lineKnown_respond _ _ _) rfl
    | exhaust => exact h.congr (lineKnown_fatal _ _) rfl
  issued h _ _ _ _ := h.congr (lineKnown_issue _ _ _) rfl
  taken h _ := h
  answered _ h _ _ _ _ := h.congr (lineKnown_result _ _ _) rfl
  reset level k _ := lineOk_resetStep level k _

/-- Settles O58: only the LINE step emits `SetLine`, and it drives the line to COMMAND. -/
theorem stepKeepsLineAtCommand : Obligations.StepKeepsLineAtCommand := fun _ _ hs h => lineOk_keptByMoves.step hs h

/-- The history shows no level DATA on the line. -/
def NeverData (s : State) : Prop := ∀ c, Event.setLine c .data ∉ s.hist

theorem NeverData.append {s t : State} {e : Event} (h : NeverData s) (hh : t.hist = s.hist ++ [e])
    (he : ∀ c, Event.setLine c .data ≠ e) : NeverData t := fun c hc => by
  rw [hh, List.mem_append, List.mem_singleton] at hc
  exact hc.elim (h c) (he c)

theorem neverData_keptByMoves : KeptByMoves NeverData where
  scheduled _ _ _ h := h
  rejected h _ := h.append rfl nofun
  framed h _ hm := by
    cases hm with
    | stay | accept | grant | build => exact h
    | _ => exact h.append rfl nofun
  packed h hm := by
    cases hm with
    | stay => exact h
    | _ => exact h.append rfl nofun
  issued h _ _ _ _ := h.append rfl nofun
  taken h _ := h
  answered _ h _ _ _ _ := h.append rfl nofun
  reset _ _ h := h.append rfl nofun

/-- Settles O47: the one `SetLine` event, that of the LINE step, has the level COMMAND. -/
theorem noStepEmitsDataLevel : Obligations.NoStepEmitsDataLevel := fun _ _ h hs => neverData_keptByMoves.step hs h

/-! ### The observation (R228, R30) -/

section Observation

variable {c : CallerId} {r : Response} {s t : State}

/-- The observation looks at the responses, the history, `RES` and the parameters; forgetting `RES` is harmless. -/
theorem Observed.congr (h : Observed s) (hp : t.params = s.params) (hr : t.rsp = s.rsp) (hh : t.hist = s.hist)
    (ht : t.taken = s.taken) (hres : ∀ res, t.res = some res → s.res = some res) : Observed t where
  waiting c r hw := hh ▸ h.waiting c r (by simpa only [rspAt, hr] using hw)
  taken c r hm := hh ▸ h.taken c r (ht ▸ hm)
  latched res hl := hp ▸ h.latched res (hres res hl)
  results c res hm := hp ▸ h.results c res (hh ▸ hm)
  responses c e hm := hp ▸ h.responses c e (hh ▸ hm)

/-- An event may be appended if the error value in it is one of the type. -/
theorem Observed.emit {e : Event} (h : Observed s)
    (hres : ∀ c res, e = .result c res → resultAllowed s.params res = true)
    (hrsp : ∀ c x, e = .respond c (.transportError x) → isErrorOf s.params.errType x = true) :
    Observed (emit e s) where
  waiting c r hw := List.mem_append_left _ (h.waiting c r hw)
  taken c r hm := List.mem_append_left _ (h.taken c r hm)
  latched := h.latched
  results c res hm := (List.mem_append.1 hm).elim (h.results c res) fun he => hres c res (List.mem_singleton.1 he).symm
  responses c x hm := (List.mem_append.1 hm).elim (h.responses c x) fun he => hrsp c x (List.mem_singleton.1 he).symm

/-- A response that the history shows may wait in its caller's slot. -/
theorem Observed.setRsp (h : Observed s) (hr : Event.respond c r ∈ s.hist) : Observed (setRsp c (some r) s) where
  waiting c' r' hw := by
    rw [rspAt_setRsp] at hw
    split at hw
    next hc =>
      obtain rfl := Option.some.inj hw
      exact hc.1 ▸ hr
    next => exact h.waiting c' r' hw
  taken := h.taken
  latched := h.latched
  results := h.results
  responses := h.responses

/-- A response is shown by the event it is delivered with (R14). -/
theorem Observed.respond (h : Observed s)
    (hr : ∀ x, r = .transportError x → isErrorOf s.params.errType x = true) : Observed (respond c r s) := by
  have hshown : Observed (Machine.emit (.respond c r) (setReq c .empty s)) :=
    (h.congr (t := setReq c .empty s) rfl rfl rfl rfl fun _ => id).emit nofun
      fun _ x he => hr x (Event.respond.inj he).2
  exact hshown.setRsp (List.mem_append_right _ (List.mem_singleton_self _))

/-- A response taken out was waiting (R228). -/
theorem Observed.take (h : Observed s) (hr : rspAt c s = some r) :
    Observed { Machine.setRsp c none s with taken := s.taken ++ [(c, r)] } where
  waiting c' r' hw := by
    have hw : rspAt c' (Machine.setRsp c none s) = some r' := hw
    rw [rspAt_setRsp] at hw
    split at hw
    next => cases hw
    next => exact h.waiting c' r' hw
  taken c' r' hm := by
    rcases List.mem_append.1 hm with hm | hm
    · exact h.taken c' r' hm
    · obtain ⟨rfl, rfl⟩ := Prod.mk.inj (List.mem_singleton.1 hm)
      exact h.waiting _ _ hr
  latched := h.latched
  results := h.results
  responses := h.responses

/-- A reset drops the responses that wait, and leaves the ones taken out (log 16). -/
theorem Observed.reset (h : Observed s) (level : Level) (k : Nat) : Observed (resetStep level k s) where
  waiting c r hw := absurd ((rspAt_resetStep c level k s).symm.trans hw) nofun
  taken c r hm := List.mem_append_left _ (h.taken c r hm)
  latched := nofun
  results c res hm := h.results c res (by simpa [resetStep] using hm)
  responses c e hm := h.responses c e (by simpa [resetStep] using hm)

end Observation

/-- The response of a framed call carries no error value but the transport's (R144). -/
theorem framedResponse_eq_transportError {res : TResult} {e : TErr} (h : framedResponse res = .transportError e) :
    res = .err e := by
  cases res with
  | ok => cases h
  | err e' => exact congrArg TResult.err (Response.transportError.inj h)

theorem observed_keptByMoves : KeptByMoves Observed where
  scheduled _ _ _ h := h.congr rfl rfl rfl rfl fun _ => id
  rejected h _ := h.respond nofun
  framed {d s t} h _ hm := by
    cases hm with
    | stay | accept | grant | build => exact h.congr rfl rfl rfl rfl fun _ => id
    | exhaust => exact (h.congr (t := { s with fatal := true }) rfl rfl rfl rfl fun _ => id).emit nofun nofun
    | line =>
      exact (h.congr (t := { s with cl := .command, seq := .build }) rfl rfl rfl rfl fun _ => id).emit nofun nofun
    | submit => exact (h.congr (t := { s with seq := .wait }) rfl rfl rfl rfl fun _ => id).emit nofun nofun
    | complete res hf hs hc hq hr =>
      refine Observed.respond (h.congr rfl rfl rfl rfl nofun) fun x hx => ?_
      exact h.latched (.err x) (framedResponse_eq_transportError hx ▸ hr)
  packed {c pol w bytes s t} h hm := by
    cases hm with
    | stay => exact h
    | invalid | packed => exact h.respond nofun
    | exhaust => exact (h.congr (t := { s with fatal := true }) rfl rfl rfl rfl fun _ => id).emit nofun nofun
  issued {c r s} h _ _ _ _ :=
    (h.congr (t := setReq c (.pending r) s) rfl rfl rfl rfl fun _ => id).emit nofun nofun
  taken h hr := h.take hr
  answered {d tx res s} k h hok _ _ _ := by
    refine Observed.emit ⟨h.waiting, h.taken, fun r hr => ?_, h.results, h.responses⟩ (fun c r he => ?_) nofun
    · exact Option.some.inj hr ▸ hok
    · exact (Event.result.inj he).2 ▸ hok
  reset level k h := h.reset level k

/-- Settles O57: every response is delivered with its event, and the one that carries an error value is the answer that
the transport latched. -/
theorem stepKeepsObservation : Obligations.StepKeepsObservation := fun _ _ hs h => observed_keptByMoves.step hs h

/-! ### The state after reset (R39, R211) -/

theorem blockInv_resetWith (p : Params) (level : Level) : BlockInv (State.resetWith p level) where
  reqLength := List.length_replicate
  rspLength := List.length_replicate
  slots c := by
    rw [reqAt_resetWith]
    trivial
  framer := (framerOk_idle rfl).2 ⟨rfl, rfl, ⟨rfl, rfl⟩, ⟨rfl, rfl⟩⟩

theorem openCalls_resetWith (p : Params) (level : Level) : OpenCalls (State.resetWith p level) := fun c => by
  have hclosed : isOpen c (State.resetWith p level).hist = false := rfl
  simp [hclosed]

theorem observed_resetWith (p : Params) (level : Level) : Observed (State.resetWith p level) where
  waiting c r hw := absurd ((rspAt_resetWith c p level).symm.trans hw) nofun
  taken := nofun
  latched := nofun
  results := by simp [State.resetWith]
  responses := by simp [State.resetWith]

/-- Settles O53: after a reset every slot is EMPTY, every register is released and the history is the event `Reset`. -/
theorem resetMeetsInvariants : Obligations.ResetMeetsInvariants := by
  have hreset : ∀ p level, BlockInv (State.resetWith p level) ∧ BusOrder (State.resetWith p level) ∧
      OpenCalls (State.resetWith p level) ∧ LineOk (State.resetWith p level) ∧ Observed (State.resetWith p level) :=
    fun p level => ⟨blockInv_resetWith p level, rfl, openCalls_resetWith p level, nofun, observed_resetWith p level⟩
  exact ⟨hreset, hreset Config.params Config.resetLevel⟩

/-! ### What the invariant says of a state (R35, R39) -/

section Items

variable {s : State}

/-- `LOCK` and `CUR` are released together, in IDLE, or both belong to one call (R35). -/
theorem FramerOk.idle_or_inCall (h : FramerOk s) :
    (s.seq = .idle ∧ s.lock = .free ∧ s.cur = none) ∨ (s.seq ≠ .idle ∧ ∃ d, InCall d s) := by
  cases hq : s.seq with
  | idle =>
    obtain ⟨hl, hc, -⟩ := (framerOk_idle hq).1 h
    exact .inl ⟨rfl, hl, hc⟩
  | line => exact .inr ⟨nofun, ((framerOk_line hq).1 h).imp fun _ => And.left⟩
  | build => exact .inr ⟨nofun, ((framerOk_build hq).1 h).imp fun _ => And.left⟩
  | submit => exact .inr ⟨nofun, ((framerOk_submit hq).1 h).imp fun _ => And.left⟩
  | wait => exact .inr ⟨nofun, ((framerOk_wait hq).1 h).imp fun _ => And.left⟩
  | done => exact .inr ⟨nofun, ((framerOk_done hq).1 h).imp fun _ => And.left⟩

/-- BUILD separates the phases in which `TX` and `WBUF` hold nothing from those in which they hold the call's. -/
theorem FramerOk.unbuilt_or_built (h : FramerOk s) :
    Unbuilt s ∨
      ((s.seq = .submit ∨ s.seq = .wait ∨ s.seq = .done) ∧ ∃ d, s.cur = some d ∧ Built d s) := by
  cases hq : s.seq with
  | idle =>
    obtain ⟨-, -, hu, -⟩ := (framerOk_idle hq).1 h
    exact .inl hu
  | line =>
    obtain ⟨d, -, hu, -⟩ := (framerOk_line hq).1 h
    exact .inl hu
  | build =>
    obtain ⟨d, -, hu, -⟩ := (framerOk_build hq).1 h
    exact .inl hu
  | submit =>
    obtain ⟨d, hd, hb, -⟩ := (framerOk_submit hq).1 h
    exact .inr ⟨by simp, d, hd.cur, hb⟩
  | wait =>
    obtain ⟨d, hd, hb, -⟩ := (framerOk_wait hq).1 h
    exact .inr ⟨by simp, d, hd.cur, hb⟩
  | done =>
    obtain ⟨d, hd, hb, -⟩ := (framerOk_done hq).1 h
    exact .inr ⟨by simp, d, hd.cur, hb⟩

/-- An answer is held in DONE only (R39, item 3). -/
theorem FramerOk.res_eq_none (h : FramerOk s) (hd : s.seq ≠ .done) : s.res = none := by
  cases hq : s.seq with
  | idle =>
    obtain ⟨-, -, -, hn⟩ := (framerOk_idle hq).1 h
    exact hn.1
  | line =>
    obtain ⟨d, -, -, hn⟩ := (framerOk_line hq).1 h
    exact hn.1
  | build =>
    obtain ⟨d, -, -, hn⟩ := (framerOk_build hq).1 h
    exact hn.1
  | submit =>
    obtain ⟨d, -, -, hn⟩ := (framerOk_submit hq).1 h
    exact hn.1
  | wait =>
    obtain ⟨d, -, -, hn⟩ := (framerOk_wait hq).1 h
    exact hn.1
  | done => exact absurd hq hd

/-- `LOCK` is free exactly in IDLE with nothing in `CUR` (R39, item 1). -/
theorem FramerOk.lock_free_iff (h : FramerOk s) : s.lock = .free ↔ s.seq = .idle ∧ s.cur = none := by
  rcases h.idle_or_inCall with ⟨hq, hl, hc⟩ | ⟨hq, d, hd⟩
  · simp [hq, hl, hc]
  · simp [hq, hd.lock]

/-- `LOCK` is held by the caller of the call in `CUR` (R35). -/
theorem FramerOk.lock_held_iff (h : FramerOk s) (c : CallerId) :
    s.lock = .held c ↔ ∃ d, s.cur = some d ∧ framedCaller d = c := by
  rcases h.idle_or_inCall with ⟨-, hl, hc⟩ | ⟨-, d, hd⟩
  · simp [hl, hc]
  · simp [hd.lock, hd.cur]

/-- `TX` holds nothing before BUILD (R39, item 2). -/
theorem FramerOk.tx_eq_none (h : FramerOk s) (hq : s.seq = .idle ∨ s.seq = .line ∨ s.seq = .build) : s.tx = none := by
  rcases h.unbuilt_or_built with ⟨ht, -⟩ | ⟨hp, -⟩
  · exact ht
  · rcases hq with hq | hq | hq <;> simp [hq] at hp

/-- `WBUF` holds nothing unless a SENDP was built (R39, item 4). -/
theorem FramerOk.wbuf_eq_nil (h : FramerOk s)
    (hn : ¬ ((s.seq = .submit ∨ s.seq = .wait ∨ s.seq = .done) ∧
      ∃ c cmd pol bytes, s.cur = some (.sendp c cmd pol bytes))) : s.wbuf = [] := by
  rcases h.unbuilt_or_built with ⟨-, hw⟩ | ⟨hp, d, hc, -, hw⟩
  · exact hw
  · cases d with
    | send c cmd => exact hw
    | sendp c cmd pol bytes => exact absurd ⟨hp, c, cmd, pol, bytes, hc⟩ hn

end Items

/-- Settles O59: the items of R39, read off the phases of the Framer. -/
theorem invariantGivesListedItems : Obligations.InvariantGivesListedItems := fun _ hs hl =>
  ⟨hs.framer.lock_free_iff, hs.framer.tx_eq_none, hs.framer.res_eq_none, hs.framer.wbuf_eq_nil, hl,
    hs.framer.lock_held_iff⟩

end Sys2Proof.Safety
end

section
/-! PROOFS of the state family, ended: the instruction a step runs, the steps of the callers and of the transport, the
frame of SEND and SENDP, `FATAL`, the control line, and the codes (R20, R23, R27, R28, R94, R162, R164). -/

namespace Sys2Proof.Machine

open Sys2Proof.Safety

/-! ### The instruction that a step runs (R20, R122, R156) -/

section Run

variable {c : CallerId} {i : Instr} {s t : State}

/-- Serving a caller runs the instruction its slot holds. -/
theorem serve_eq_exec (hf : s.fatal = false) (hi : HeldBy c s i) : serve c s = exec i s := by
  cases hi with
  | pending r hs hd => simp [serve, hf, hs, hd]
  | waiting d hs hd => simp [serve, hf, hs, hd]
  | active d hs hc hd he => simp [serve, hf, hs, hc, hd, he]

theorem step_eq_exec (hf : s.fatal = false) (hm : nextMove s = .serve c)
    (hi : HeldBy c { advance s with turn := c } i) : step s = exec i { advance s with turn := c } := by
  unfold step
  rw [hm]
  exact serve_eq_exec hf hi

end Run

/-- Settles O6: the move is used up and the caller noted, which leaves the slot that the instruction is read from. -/
theorem stepRunsDecodedInstruction : Obligations.StepRunsDecodedInstruction := fun _ _ hf hm =>
  ⟨fun r _ hs hi => step_eq_exec hf hm (.pending r hs hi),
    fun d hs => step_eq_exec hf hm (.waiting d hs rfl),
    fun d hs hc hd => step_eq_exec hf hm (.active d hs hc hd rfl)⟩

/-! ### Issue and take (R27, R71, R199, R228) -/

/-- Settles O40: the guard of the issue step is R27's, and a request of a caller meets the rest of it. -/
theorem issueAndTakeSteps : Obligations.IssueAndTakeSteps := by
  intro c s hc
  refine ⟨fun r hr => ?_, fun r hs => ?_, fun hs => ?_⟩
  · have hguard : mayIssue c r s = true ↔ reqAt c s = .empty ∧ rspAt c s = none := by simp [mayIssue, hc, hr]
    simp only [takeMove, issueStep, hguard]
    rfl
  · simp only [takeMove, takeStep, hs]
    rfl
  · simp only [takeMove, takeStep, hs]

/-! ### ANSWER (R31, R162) -/

section Wait

variable {c : CallerId} {s t : State}

/-- An enabled ANSWER move latches its result. -/
theorem answerStep_of_wait {d : Framed} {tx : Transaction} {res : TResult} (k : Nat) (hf : s.fatal = false)
    (hq : s.seq = .wait) (hc : s.cur = some d) (ht : s.tx = some tx) (hok : resultAllowed s.params res = true) :
    answerStep res k s = emit (.result (framedCaller d) res)
      { s with res := some res, live := some (receivedAfter s.params tx res k), seq := .done } := by
  simp only [answerStep, hf, hok, hq, hc, ht, Bool.not_true, Bool.or_self, Bool.false_eq_true, if_false]

/-- No step of the Framer leaves WAIT (R156): it is the transport's turn. -/
theorem FramerMove.seq_eq_wait {d : Framed} (h : FramerMove d s t) (hq : s.seq = .wait) : t.seq = .wait := by
  cases h with
  | grant d' hf hs hl hi => exact absurd (hq.symm.trans hi) nofun
  | line hf hs hc hl => exact absurd (hq.symm.trans hl) nofun
  | build hf hs hc hb => exact absurd (hq.symm.trans hb) nofun
  | submit => rfl
  | complete res hf hs hc hd => exact absurd (hq.symm.trans hd) nofun
  | _ => exact hq

theorem PackMove.seq_eq {pol : AlignPolicy} {w : Nat} {bytes : List Byte} (h : PackMove c pol w bytes s t) :
    t.seq = s.seq := by
  cases h <;> rfl

theorem Served.seq_eq_wait (h : Served c s t) (hq : s.seq = .wait) : t.seq = .wait := by
  cases h with
  | stay => exact hq
  | reject => exact hq
  | framed d _ hd hi h => exact h.seq_eq_wait hq
  | packed pol width bytes _ hi h => exact h.seq_eq.trans hq

/-- While the transport has not answered, no move but its own and a reset moves the sequencer on (R31). -/
theorem takeMove_seq_eq_wait {m : Move} (hq : s.seq = .wait) (ha : ∀ res k, m ≠ .answer res k)
    (hr : ∀ level k, m ≠ .reset level k) (h : takeMove m s = .next t) : t.seq = .wait := by
  cases m with
  | serve c => exact ((serve_move c { s with turn := c }).served rfl h).seq_eq_wait hq
  | issue c r =>
    obtain rfl : issueStep c r s = t := Host.Outcome.next.inj h
    rcases issueStep_cases c r s with he | ⟨-, -, -, -, he⟩ <;> rw [he] <;> exact hq
  | take c =>
    obtain rfl : takeStep c s = t := Host.Outcome.next.inj h
    exact (takeStep_seq c s).trans hq
  | answer res k => exact absurd rfl (ha res k)
  | reset level k => exact absurd rfl (hr level k)

end Wait

/-- Settles O30: the answer is latched whatever the draw, and only it or a reset ends WAIT. -/
theorem answerStepLatchesResult : Obligations.AnswerStepLatchesResult := fun _ _ _ hf hq hc ht =>
  ⟨fun _ k hok => congrArg Host.Outcome.next (answerStep_of_wait k hf hq hc ht hok),
    fun _ _ ha hr h => takeMove_seq_eq_wait hq ha hr h⟩

/-! ### The frame of SEND and SENDP (R157-R164) -/

section FramerFrame

variable {d : Framed} {s t : State} (h : FramerMove d s t)
include h

theorem FramerMove.sameOthers : SameOthers (framedCaller d) s t := by
  cases h with
  | accept => exact sameOthers_setReq _ _ s
  | grant => exact ⟨rfl, List.length_set, rfl, fun hne => reqAt_setReq_ne hne _ s, fun _ => rfl⟩
  | complete => exact ⟨rfl, List.length_set, List.length_set, fun hne => reqAt_respond_ne hne _ _,
      fun hne => rspAt_respond_ne hne _ _⟩
  | _ => exact ⟨rfl, rfl, rfl, fun _ => rfl, fun _ => rfl⟩

theorem FramerMove.schedule_eq : t.taken = s.taken ∧ t.plan = s.plan ∧ t.draws = s.draws ∧ t.turn = s.turn := by
  cases h <;> exact ⟨rfl, rfl, rfl, rfl⟩

theorem FramerMove.responses_eq (hd : s.seq ≠ .done) :
    t.rsp = s.rsp ∧ t.res = s.res ∧ t.live = s.live ∧ t.device = s.device := by
  cases h with
  | complete res hf hs hc hq => exact absurd hq hd
  | _ => exact ⟨rfl, rfl, rfl, rfl⟩

theorem FramerMove.cl_eq (hl : s.seq ≠ .line) : t.cl = s.cl := by
  cases h with
  | line hf hs hc hq => exact absurd hq hl
  | _ => rfl

theorem FramerMove.buffer_eq (hb : s.seq ≠ .build) (hd : s.seq ≠ .done) : t.wbuf = s.wbuf ∧ t.tx = s.tx := by
  cases h with
  | build hf hs hc hq => exact absurd hq hb
  | complete res hf hs hc hq => exact absurd hq hd
  | _ => exact ⟨rfl, rfl⟩

/-- A SEND packs nothing, so ACCEPT cannot halt and BUILD has no word to write. -/
theorem FramerMove.send_buffer_eq {c : CallerId} {cmd : Byte} (hs : d = .send c cmd) (hd : s.seq ≠ .done) :
    t.wbuf = s.wbuf ∧ t.fatal = s.fatal := by
  subst hs
  cases h with
  | exhaust r hf hs hfit => exact absurd hfit nofun
  | complete res hf hs hc hq => exact absurd hq hd
  | _ => exact ⟨rfl, rfl⟩

theorem FramerMove.call_eq (hi : s.seq ≠ .idle) (hd : s.seq ≠ .done) : t.lock = s.lock ∧ t.cur = s.cur := by
  cases h with
  | grant d' hf hs hl hq => exact absurd hq hi
  | complete res hf hs hc hq => exact absurd hq hd
  | _ => exact ⟨rfl, rfl⟩

end FramerFrame

/-- Settles O35: SEND and SENDP are the Framer's step of their caller. -/
theorem framedRequestFrame : Obligations.FramedRequestFrame := by
  intro i s t hi he
  rcases exec_cases i s with ⟨d, hd, hdi, hx⟩ | ⟨pol, width, bytes, hp, -⟩
  · obtain rfl : framerStep d s = t := Host.Outcome.next.inj (hx.symm.trans he)
    have hm := framerStep_move d s
    have hothers := hd ▸ hm.sameOthers
    obtain ⟨htaken, hplan, hdraws, hturn⟩ := hm.schedule_eq
    refine ⟨hothers.params, htaken, hplan, hdraws, hturn, fun c hc => ⟨hothers.reqAt_ne hc, hothers.rspAt_ne hc⟩,
      hm.responses_eq, hm.cl_eq, hm.buffer_eq, fun cmd hcmd => ?_, hm.call_eq⟩
    exact hm.send_buffer_eq (c := s.turn) (framed_ext hd (hdi.trans hcmd))
  · exact absurd hp (hi pol width bytes)

/-! ### FATAL (R28, R184, R199, R210) -/

section Fatal

variable {c : CallerId} {s t : State}

/-- The next move serves a pending request whose words do not fit the buffer (R184). -/
def MoveExhausts (s : State) : Prop :=
  ∃ c r n w, nextMove s = .serve c ∧ reqAt c s = .pending r ∧ bufferFits s.params n w = false ∧
    ((∃ cmd pol bytes, fetchRequest r = .instr (.sendp cmd pol bytes) ∧ n = bytes.length ∧ w = s.params.wordBytes) ∨
      (∃ pol width bytes, fetchRequest r = .instr (.pack pol width bytes) ∧ n = bytes.length ∧ w = widthOperand width))

/-- A buffer of words of width 0 always fits. -/
theorem bufferFits_zero (p : Params) (n : Nat) : bufferFits p n 0 = true := by
  unfold bufferFits
  split
  · rfl
  · simp

theorem framerStep_of_exhausted {d : Framed} {r : Request} (hf : s.fatal = false)
    (hs : reqAt (framedCaller d) s = .pending r) (hfit : framedFits s.params d = false) :
    framerStep d s = exhaust (framedCaller d) s := by
  simp [framerStep, acceptStep, hf, hs, hfit]

theorem packStep_of_exhausted {pol : AlignPolicy} {w : Nat} {bytes : List Byte} {r : Request} (hf : s.fatal = false)
    (hs : reqAt c s = .pending r) (hfit : bufferFits s.params bytes.length w = false) :
    packStep c pol w bytes s = exhaust c s := by
  have hw : w ≠ 0 := by
    rintro rfl
    simp [bufferFits_zero] at hfit
  simp [packStep, pack, hf, hs, hw, hfit]

/-- ACCEPT alone halts a framed call (R157). -/
theorem FramerMove.exhausted {d : Framed} (h : FramerMove d s t) (hs : s.fatal = false) (ht : t.fatal = true) :
    ∃ r, reqAt (framedCaller d) s = .pending r ∧ framedFits s.params d = false := by
  cases h with
  | exhaust r hf hp hfit => exact ⟨r, hp, hfit⟩
  | _ => exact absurd (hs.symm.trans ht) nofun

theorem PackMove.exhausted {pol : AlignPolicy} {w : Nat} {bytes : List Byte} (h : PackMove c pol w bytes s t)
    (hs : s.fatal = false) (ht : t.fatal = true) : bufferFits s.params bytes.length w = false := by
  cases h with
  | exhaust r hf hp hw hfit => exact hfit
  | _ => exact absurd (hs.symm.trans ht) nofun

/-- A step that halts the block serves a request that exhausts the buffer. -/
theorem StepMove.exhausts {o : Host.Outcome State Fault Refusal} (h : StepMove s o) (ho : o = .next t)
    (hs : s.fatal = false) (ht : t.fatal = true) : MoveExhausts s := by
  cases h with
  | serve c hm _ hv =>
    cases hv.served rfl ho with
    | framed d _ hd hi h =>
      obtain ⟨r, hp, hfit⟩ := h.exhausted hs ht
      subst hd
      have hfetch := hi.fetch_of_pending hp
      cases d with
      | send c cmd => exact absurd hfit nofun
      | sendp c cmd pol bytes => exact ⟨c, r, _, _, hm, hp, hfit, .inl ⟨cmd, pol, bytes, hfetch, rfl, rfl⟩⟩
    | packed pol width bytes _ hi h =>
      obtain ⟨r, hp, hfetch⟩ := hi.pending_of_pack
      exact ⟨c, r, _, _, hm, hp, h.exhausted hs ht, .inr ⟨pol, width, bytes, hfetch, rfl, rfl⟩⟩
    | _ => exact absurd (hs.symm.trans ht) nofun
  | reset =>
    cases ho
    exact absurd ht nofun
  | _ =>
    cases ho
    exact absurd (hs.symm.trans ht) nofun

/-- Serving a request that exhausts the buffer halts the block. -/
theorem MoveExhausts.fatal (h : MoveExhausts s) (hf : s.fatal = false) (hstep : step s = .next t) :
    t.fatal = true := by
  obtain ⟨c, r, n, w, hm, hs, hfit, ⟨cmd, pol, bytes, hi, rfl, rfl⟩ | ⟨pol, width, bytes, hi, rfl, rfl⟩⟩ := h
  · have hexec := (step_eq_exec hf hm (.pending r hs hi)).symm.trans hstep
    have hhalt := framerStep_of_exhausted (d := .sendp c cmd pol bytes) (s := { advance s with turn := c }) hf hs hfit
    exact Host.Outcome.next.inj hexec ▸ congrArg State.fatal hhalt
  · have hexec := (step_eq_exec hf hm (.pending r hs hi)).symm.trans hstep
    have hhalt := packStep_of_exhausted (pol := pol) (s := { advance s with turn := c }) hf hs hfit
    exact Host.Outcome.next.inj hexec ▸ congrArg State.fatal hhalt

/-- A halted block serves no caller (R199). -/
theorem step_serve_of_fatal (hf : s.fatal = true) (hm : nextMove s = .serve c) :
    step s = .next { advance s with turn := c } := by
  simp [step, takeMove, serve, hm, hf]

/-- A halted block takes no answer (R199). -/
theorem step_answer_of_fatal {res : TResult} {k : Nat} (hf : s.fatal = true) (hm : nextMove s = .answer res k) :
    step s = .next (advance s) := by
  simp [step, takeMove, answerStep, hm, hf]

/-- `FATAL` stays until a reset. -/
theorem fatal_of_fatal (hf : s.fatal = true) (hr : ∀ level k, nextMove s ≠ .reset level k)
    (h : step s = .next t) : t.fatal = true := by
  cases hm : nextMove s with
  | serve c =>
    obtain rfl := Host.Outcome.next.inj ((step_serve_of_fatal hf hm).symm.trans h)
    exact hf
  | issue c r =>
    obtain rfl : issueStep c r (advance s) = t := by simpa [step, takeMove, hm] using h
    rcases issueStep_cases c r (advance s) with he | ⟨-, -, -, -, he⟩ <;> rw [he] <;> exact hf
  | take c =>
    obtain rfl : takeStep c (advance s) = t := by simpa [step, takeMove, hm] using h
    exact (takeStep_fatal c _).trans hf
  | answer res k =>
    obtain rfl := Host.Outcome.next.inj ((step_answer_of_fatal hf hm).symm.trans h)
    exact hf
  | reset level k => exact absurd hm (hr level k)

theorem not_fatal_of_reset {level : Level} {k : Nat} (hm : nextMove s = .reset level k) (h : step s = .next t) :
    t.fatal = false := by
  obtain rfl : resetStep level k (advance s) = t := by simpa [step, takeMove, hm] using h
  rfl

end Fatal

/-- Settles O45: exhaustion sets `FATAL`, a reset clears it, and in between a move of the block or of the transport is
used up without effect. -/
theorem fatalIsSticky : Obligations.FatalIsSticky := by
  refine ⟨fun s t h => ⟨fun hf => ⟨fun ht => ?_, fun ⟨level, k, hm⟩ => not_fatal_of_reset hm h⟩,
    fun hf => ⟨(step_move s).exhausts h hf, fun he => MoveExhausts.fatal he hf h⟩, fun hf hmove => ?_⟩,
    fun _ _ => rfl⟩
  · by_contra hr
    have hstay := fatal_of_fatal hf (fun level k hm => hr ⟨level, k, hm⟩) h
    exact absurd (ht.symm.trans hstay) nofun
  · rcases hmove with ⟨c, hm⟩ | ⟨res, k, hm⟩
    · obtain rfl := Host.Outcome.next.inj ((step_serve_of_fatal hf hm).symm.trans h)
      rfl
    · obtain rfl := Host.Outcome.next.inj ((step_answer_of_fatal hf hm).symm.trans h)
      rfl

/-! ### The control line (R23, R33, R146) -/

/-- The line stays, or is drawn by a reset, or is driven by the LINE step of the call in `CUR`. -/
theorem StepMove.cl_cases {s t : State} {o : Host.Outcome State Fault Refusal} (h : StepMove s o) (ho : o = .next t) :
    t.cl = s.cl ∨ (∃ level k, nextMove s = .reset level k ∧ t.cl = level) ∨
      (∃ d, s.cur = some d ∧ nextMove s = .serve (framedCaller d) ∧ s.seq = .line ∧ t.seq = .build ∧ t.cl = .command ∧
        t.hist = s.hist ++ [.setLine (framedCaller d) .command]) := by
  cases h with
  | serve c hm _ hv =>
    cases hv.served rfl ho with
    | framed d _ hd hi h =>
      cases h with
      | line hf hs hc hq => exact .inr (.inr ⟨d, hc, hd ▸ hm, hq, rfl, rfl, rfl⟩)
      | _ => exact .inl rfl
    | packed pol width bytes _ hi h => cases h <;> exact .inl rfl
    | _ => exact .inl rfl
  | reset level k hm =>
    cases ho
    exact .inr (.inl ⟨level, k, hm, rfl⟩)
  | _ =>
    cases ho
    exact .inl rfl

/-- Settles O46: of the moves of the block only the LINE step drives the line. -/
theorem onlyLineStepDrivesLine : Obligations.OnlyLineStepDrivesLine := fun s _ h => (step_move s).cl_cases h

section Blind

variable (level : Level) (s : State)

/-- A state with another level on the line. -/
def withLine : State := { s with cl := level }

@[simp] theorem withLine_params : (withLine level s).params = s.params := rfl
@[simp] theorem withLine_seq : (withLine level s).seq = s.seq := rfl
@[simp] theorem withLine_lock : (withLine level s).lock = s.lock := rfl
@[simp] theorem withLine_tx : (withLine level s).tx = s.tx := rfl
@[simp] theorem withLine_fatal : (withLine level s).fatal = s.fatal := rfl
@[simp] theorem withLine_res : (withLine level s).res = s.res := rfl
@[simp] theorem withLine_cur : (withLine level s).cur = s.cur := rfl
@[simp] theorem reqAt_withLine (c : CallerId) : reqAt c (withLine level s) = reqAt c s := rfl

theorem acceptStep_withLine (d : Framed) : acceptStep d (withLine level s) = withLine level (acceptStep d s) := by
  by_cases hfit : framedFits s.params d = true
  · simp only [acceptStep, withLine_params, hfit, if_true]
    rfl
  · simp only [acceptStep, withLine_params, hfit, if_false, Bool.false_eq_true]
    rfl

theorem grantStep_withLine (d : Framed) : grantStep d (withLine level s) = withLine level (grantStep d s) := by
  by_cases hfree : s.lock = .free ∧ s.seq = .idle
  · simp only [grantStep, withLine_lock, withLine_seq, hfree, and_self, if_true]
    rfl
  · simp only [grantStep, withLine_lock, withLine_seq, hfree, if_false]

theorem submitStep_withLine (d : Framed) : submitStep d (withLine level s) = withLine level (submitStep d s) := by
  simp only [submitStep, withLine_tx]
  split <;> rfl

theorem completeStep_withLine (d : Framed) : completeStep d (withLine level s) = withLine level (completeStep d s) := by
  simp only [completeStep, withLine_res]
  split <;> rfl

/-- The LINE step forgets the level it found, every other step of the active call leaves it. -/
theorem activeStep_withLine (d : Framed) : ∃ x, activeStep d (withLine level s) = withLine x (activeStep d s) := by
  simp only [activeStep, withLine_seq]
  cases s.seq with
  | line => exact ⟨.command, rfl⟩
  | submit => exact ⟨level, submitStep_withLine level s d⟩
  | done => exact ⟨level, completeStep_withLine level s d⟩
  | _ => exact ⟨level, rfl⟩

theorem framerStep_withLine (d : Framed) : ∃ x, framerStep d (withLine level s) = withLine x (framerStep d s) := by
  simp only [framerStep, withLine_fatal, reqAt_withLine, withLine_cur]
  by_cases hf : s.fatal = true
  · simp only [hf, if_true]
    exact ⟨level, rfl⟩
  · simp only [hf, if_false, Bool.false_eq_true]
    cases reqAt (framedCaller d) s with
    | empty => exact ⟨level, rfl⟩
    | pending r => exact ⟨level, acceptStep_withLine level s d⟩
    | waiting d' => exact ⟨level, grantStep_withLine level s d⟩
    | active =>
      by_cases hc : s.cur = some d
      · simpa only [hc, if_true] using activeStep_withLine level s d
      · simp only [hc, if_false]
        exact ⟨level, rfl⟩

theorem packStep_withLine (c : CallerId) (pol : AlignPolicy) (w : Nat) (bytes : List Byte) :
    packStep c pol w bytes (withLine level s) = withLine level (packStep c pol w bytes s) := by
  simp only [packStep, withLine_fatal, reqAt_withLine, withLine_params]
  by_cases hf : s.fatal = true
  · simp only [hf, if_true]
  · simp only [hf, if_false, Bool.false_eq_true]
    cases reqAt c s with
    | pending r =>
      cases pack bytes pol w with
      | invalidWidth => rfl
      | words ws =>
        by_cases hfit : bufferFits s.params bytes.length w = true
        · simp only [hfit, if_true]
          rfl
        · simp only [hfit, if_false, Bool.false_eq_true]
          rfl
    | _ => rfl

theorem exec_withLine (i : Instr) {t : State} (h : exec i s = .next t) :
    ∃ x, exec i (withLine level s) = .next (withLine x t) := by
  cases i with
  | send cmd =>
    obtain rfl := Host.Outcome.next.inj h
    exact (framerStep_withLine level s (.send s.turn cmd)).imp fun _ => congrArg Host.Outcome.next
  | sendp cmd pol bytes =>
    obtain rfl := Host.Outcome.next.inj h
    exact (framerStep_withLine level s (.sendp s.turn cmd pol bytes)).imp fun _ => congrArg Host.Outcome.next
  | pack pol width bytes =>
    obtain rfl := Host.Outcome.next.inj h
    exact ⟨level, congrArg Host.Outcome.next (packStep_withLine level s s.turn pol (widthOperand width) bytes)⟩

end Blind

/-- Settles O48: the result from another level is the result with some level. -/
theorem noRequestReadsControlLine : Obligations.NoRequestReadsControlLine := fun i s t level h => by
  obtain ⟨x, hx⟩ := exec_withLine level s i h
  exact ⟨withLine x t, hx, rfl⟩

/-! ### Codes (R23, R93, R94, R144) -/

/-- A framed call's response has the status of its result (R144). -/
theorem framedResponse_status (res : TResult) :
    (res = .ok → statusOf (framedResponse res) = .ok) ∧
    (∀ e, res = .err e → statusOf (framedResponse res) = .transportError ∧ framedResponse res = .transportError e) := by
  cases res with
  | ok => exact ⟨fun _ => rfl, nofun⟩
  | err e =>
    refine ⟨nofun, fun e' he => ?_⟩
    obtain rfl := TResult.err.inj he
    exact ⟨rfl, rfl⟩

/-- Settles O23: the tables of R23 and R94, and the transport's result passed on unchanged. -/
theorem statusAndLineCodesAsListed : Obligations.StatusAndLineCodesAsListed :=
  ⟨⟨rfl, rfl, rfl, rfl⟩, ⟨rfl, rfl⟩, fun _ _ => rfl, rfl, rfl, framedResponse_status⟩

end Sys2Proof.Machine
end

section
/-! PROOFS of the memory family (R51, R56, R63-R65, R72, R121, R122, R153): the image of the packed words, what PACK
leaves unchanged and with what it commutes, no read outside a payload, and the order of the bus events. -/

namespace Sys2Proof.Machine

open Sys2Proof.Safety

/-! ### The byte image (R56) -/

/-- Settles O16: the padded sequence fills its words exactly, and the image undoes the grouping into words. -/
theorem imageOfPackIsPaddedBytes : Obligations.ImageOfPackIsPaddedBytes := fun bytes pol _ hw =>
  image_groupWords _ _ _ (paddedBytes_length bytes pol hw)

/-! ### The frame of PACK (R72, R121, R122) -/

section PackFrame

variable {c : CallerId} {pol : AlignPolicy} {w : Nat} {bytes : List Byte} {s t : State}
  (h : PackMove c pol w bytes s t)
include h

theorem PackMove.sameOthers : SameOthers c s t := by
  cases h with
  | invalid | packed => exact sameOthers_respond c _ s
  | stay | exhaust => exact ⟨rfl, rfl, rfl, fun _ => rfl, fun _ => rfl⟩

theorem PackMove.sameFramer : SameFramer s t := by
  cases h <;> exact ⟨rfl, rfl, rfl, rfl, rfl, rfl, rfl, rfl⟩

/-- The Packer drives no line and touches neither the callers' records nor the device's, nor the schedule. -/
theorem PackMove.records_eq : t.cl = s.cl ∧ t.taken = s.taken ∧ t.device = s.device ∧ t.plan = s.plan ∧
    t.draws = s.draws ∧ t.turn = s.turn := by
  cases h <;> exact ⟨rfl, rfl, rfl, rfl, rfl, rfl⟩

end PackFrame

/-- Settles O21: PACK is the Packer's step, which keeps the Framer's registers, the records and the other slots. -/
theorem packRequestFrame : Obligations.PackRequestFrame := by
  intro pol width bytes s t h
  obtain rfl : packStep s.turn pol (widthOperand width) bytes s = t := Host.Outcome.next.inj h
  have hm := packStep_move s.turn pol (widthOperand width) bytes s
  obtain ⟨hparams, hseq, hlock, hcur, htx, hwbuf, hres, hlive⟩ := hm.sameFramer
  obtain ⟨hcl, htaken, hdevice, hplan, hdraws, hturn⟩ := hm.records_eq
  exact ⟨hparams, hseq, hcl, hlock, hwbuf, htx, hres, hcur, htaken, hlive, hdevice, hplan, hdraws, hturn,
    fun _ hc => ⟨hm.sameOthers.reqAt_ne hc, hm.sameOthers.rspAt_ne hc⟩⟩

/-! ### PACK and the Framer (R72, D19) -/

/-- The response of a PACK step that does not halt the block (R122). -/
def packResponse (pol : AlignPolicy) (w : Nat) (bytes : List Byte) : Response :=
  if w = 0 then .invalidWidth else .packed (BitVec.ofNat 32 (wordCount bytes.length w)) (packWords bytes pol w)

section PackStep

variable {c : CallerId} {pol : AlignPolicy} {w : Nat} {bytes : List Byte} {s : State}

theorem packStep_of_pending {r : Request} (hf : s.fatal = false) (hs : reqAt c s = .pending r)
    (hfit : bufferFits s.params bytes.length w = true) :
    packStep c pol w bytes s = respond c (packResponse pol w bytes) s := by
  by_cases hw : w = 0
  · simp [packStep, pack, packResponse, hf, hs, hw]
  · simp [packStep, pack, packResponse, hf, hs, hw, hfit]

theorem packStep_of_not_enabled (h : ¬ (s.fatal = false ∧ ∃ r, reqAt c s = .pending r)) :
    packStep c pol w bytes s = s := by
  generalize ht : packStep c pol w bytes s = t
  cases ht ▸ packStep_move c pol w bytes s with
  | stay => rfl
  | invalid r hf hs => exact absurd ⟨hf, r, hs⟩ h
  | packed r hf hs => exact absurd ⟨hf, r, hs⟩ h
  | exhaust r hf hs => exact absurd ⟨hf, r, hs⟩ h

end PackStep

/-- A call that passed the buffer check is not halted (R157). -/
theorem FramerMove.fatal_eq {d : Framed} {s t : State} (h : FramerMove d s t) (hfit : framedFits s.params d = true) :
    t.fatal = s.fatal := by
  cases h with
  | exhaust r hf hs hno => exact absurd (hfit.symm.trans hno) nofun
  | _ => rfl

/-- The operation `op` may fall before or after a response to `c`: it appends the same events either way, and the two
orders differ in the history only. -/
def SwapsWithRespond (c : CallerId) (x : Response) (s : State) (op : State → State) : Prop :=
  ∃ events, (op s).hist = s.hist ++ events ∧
    op (respond c x s) = { respond c x (op s) with hist := s.hist ++ [.respond c x] ++ events }

section Swap

variable {c : CallerId} {x : Response} {d : Framed} {s : State}

/-- An operation that does nothing here. -/
theorem SwapsWithRespond.of_stay {op : State → State} (h : op s = s) (hr : op (respond c x s) = respond c x s) :
    SwapsWithRespond c x s op :=
  ⟨[], by rw [h, List.append_nil], by rw [h, hr, List.append_nil]; rfl⟩

theorem swapsWithRespond_id : SwapsWithRespond c x s id := .of_stay rfl rfl

theorem swapsWithRespond_acceptStep (hd : framedCaller d ≠ c) (hfit : framedFits s.params d = true) :
    SwapsWithRespond c x s (acceptStep d) := by
  refine ⟨[], by simp [acceptStep, hfit], ?_⟩
  simp only [acceptStep, respond_params, hfit, if_true]
  simp [respond, emit, setRsp, setReq, List.set_comm _ _ hd]

theorem swapsWithRespond_grantStep (hd : framedCaller d ≠ c) : SwapsWithRespond c x s (grantStep d) := by
  by_cases hfree : s.lock = .free ∧ s.seq = .idle
  · refine ⟨[], by simp [grantStep, hfree], ?_⟩
    simp only [grantStep, respond_lock, respond_seq, hfree, and_self, if_true]
    simp [respond, emit, setRsp, setReq, List.set_comm _ _ hd]
  · exact .of_stay (by simp only [grantStep, hfree, if_false])
      (by simp only [grantStep, respond_lock, respond_seq, hfree, if_false])

theorem swapsWithRespond_lineStep : SwapsWithRespond c x s (lineStep d) :=
  ⟨[.setLine (framedCaller d) .command], rfl, rfl⟩

theorem swapsWithRespond_buildStep : SwapsWithRespond c x s (buildStep d) :=
  ⟨[], (List.append_nil _).symm, by rw [List.append_nil]; rfl⟩

theorem swapsWithRespond_submitStep : SwapsWithRespond c x s (submitStep d) := by
  cases ht : s.tx with
  | none => exact .of_stay (by simp [submitStep, ht]) (by simp [submitStep, ht])
  | some tx =>
    refine ⟨[.submit (framedCaller d) tx], by simp [submitStep, ht], ?_⟩
    simp only [submitStep, respond_tx, ht]
    rfl

theorem swapsWithRespond_completeStep (hd : framedCaller d ≠ c) : SwapsWithRespond c x s (completeStep d) := by
  cases hr : s.res with
  | none => exact .of_stay (by simp [completeStep, hr]) (by simp [completeStep, hr])
  | some res =>
    refine ⟨[.respond (framedCaller d) (framedResponse res)], by simp [completeStep, hr], ?_⟩
    simp only [completeStep, respond_res, hr]
    simp [respond, emit, setRsp, setReq, List.set_comm _ _ hd]

theorem swapsWithRespond_activeStep (hd : framedCaller d ≠ c) : SwapsWithRespond c x s (activeStep d) := by
  simp only [SwapsWithRespond, activeStep, respond_seq]
  cases s.seq with
  | idle | wait => exact swapsWithRespond_id
  | line => exact swapsWithRespond_lineStep
  | build => exact swapsWithRespond_buildStep
  | submit => exact swapsWithRespond_submitStep
  | done => exact swapsWithRespond_completeStep hd

/-- A Framer step reads no slot of another caller and writes none, so a response to one may come before it (R72). -/
theorem swapsWithRespond_framerStep (hd : framedCaller d ≠ c) (hfit : framedFits s.params d = true) :
    SwapsWithRespond c x s (framerStep d) := by
  simp only [SwapsWithRespond, framerStep, respond_fatal, respond_cur, reqAt_respond_ne hd]
  cases s.fatal with
  | true => exact swapsWithRespond_id
  | false =>
    cases reqAt (framedCaller d) s with
    | empty => exact swapsWithRespond_id
    | pending r => exact swapsWithRespond_acceptStep hd hfit
    | waiting e => exact swapsWithRespond_grantStep hd
    | active =>
      by_cases hc : s.cur = some d
      · simp only [hc, if_true, Bool.false_eq_true, if_false]
        exact swapsWithRespond_activeStep hd
      · simp only [hc, if_false, Bool.false_eq_true]
        exact swapsWithRespond_id

end Swap

/-- Settles O22: a PACK that is enabled is a response to its caller, before and after the Framer's step. -/
theorem packCommutesWithFramer : Obligations.PackCommutesWithFramer := by
  intro c pol w bytes d s hd hfits hfit
  have hm := framerStep_move d s
  have hfatal := hm.fatal_eq hfits
  have hslot := hm.sameOthers.reqAt_ne fun e => hd e.symm
  have hperm : ∀ a b : List Event, (s.hist ++ a ++ b).Perm (s.hist ++ b ++ a) := fun a b => by
    simpa only [List.append_assoc] using List.perm_append_comm.append_left s.hist
  by_cases henabled : s.fatal = false ∧ ∃ r, reqAt c s = .pending r
  · obtain ⟨hf, r, hs⟩ := henabled
    obtain ⟨events, hhist, hswap⟩ := swapsWithRespond_framerStep (x := packResponse pol w bytes) hd hfits
    rw [packStep_of_pending hf hs hfit,
      packStep_of_pending (hfatal.trans hf) (hslot.trans hs) (hm.sameOthers.params ▸ hfit), hswap]
    exact ⟨rfl, _, events, rfl, hhist, rfl, by rw [respond_hist, hhist], hperm _ _⟩
  · obtain ⟨events, hhist⟩ := hm.growsTo.hist
    rw [packStep_of_not_enabled henabled, packStep_of_not_enabled (by rwa [hfatal, hslot])]
    exact ⟨rfl, [], events, by simp, hhist.symm, by simp [hhist], by simp [hhist], hperm _ _⟩

/-! ### No read outside a payload (R51) -/

/-- A request holds its payload (R80). -/
theorem readPayload_of_wellFormed {r : Request} (h : r.wellFormed = true) : readPayload r = some r.data := by
  have hlen : r.data.length = r.len.toNat := of_decide_eq_true h
  simp [readPayload, ← hlen]

theorem fetchRequest_ne_shortPayload {r : Request} (h : r.wellFormed = true) : fetchRequest r ≠ .shortPayload := by
  unfold fetchRequest
  rw [readPayload_of_wellFormed h]
  cases decode r.desc r.len <;> nofun

/-- Every meaning answers a next state. -/
theorem exec_next (i : Instr) (s : State) : ∃ t, exec i s = .next t := by
  rcases exec_cases i s with ⟨d, -, -, h⟩ | ⟨pol, width, bytes, -, h⟩ <;> exact ⟨_, h⟩

theorem ServeMove.next {c : CallerId} {s : State} {o : Host.Outcome State Fault Refusal} (h : ServeMove c s o)
    (hwf : ∀ r, reqAt c s = .pending r → r.wellFormed = true) : ∃ t, o = .next t := by
  cases h with
  | stay | reject => exact ⟨_, rfl⟩
  | short r hf hs hd => exact absurd hd (fetchRequest_ne_shortPayload (hwf r hs))
  | run i => exact exec_next i s

theorem StepMove.next {s : State} {o : Host.Outcome State Fault Refusal} (h : StepMove s o)
    (hwf : ∀ c r, reqAt c s = .pending r → r.wellFormed = true) : ∃ t, o = .next t := by
  cases h with
  | serve c hm _ h => exact h.next (hwf c)
  | _ => exact ⟨_, rfl⟩

/-- Settles O54: a slot of the invariant holds only requests with their payload. -/
theorem invariantStateNeverStops : Obligations.InvariantStateNeverStops := fun s hs =>
  (step_move s).next fun _ _ hr => (hs.slot hr).2

end Sys2Proof.Machine

namespace Sys2Proof.Safety

open Sys2Proof.Machine

/-! ### The bus (R62-R65, R153) -/

section Bus

variable {c : CallerId} {d : Framed} {s t : State}

/-- The bus that the registers show, phase by phase. -/
theorem busOf_idle (hq : s.seq = .idle) : busOf s = .quiet := by simp only [busOf, hq]
theorem busOf_line (hq : s.seq = .line) : busOf s = .quiet := by simp only [busOf, hq]
theorem busOf_build (hq : s.seq = .build) (hc : s.cur = some d) : busOf s = .lineSet (framedCaller d) := by
  simp only [busOf, hq, hc]
theorem busOf_submit (hq : s.seq = .submit) (hc : s.cur = some d) : busOf s = .lineSet (framedCaller d) := by
  simp only [busOf, hq, hc]
theorem busOf_wait (hq : s.seq = .wait) (hc : s.cur = some d) : busOf s = .submitted (framedCaller d) := by
  simp only [busOf, hq, hc]
theorem busOf_done {res : TResult} (hq : s.seq = .done) (hc : s.cur = some d) (hr : s.res = some res) :
    busOf s = .answered (framedCaller d) res := by
  simp only [busOf, hq, hc, hr]

theorem busRun_append (hist : List Event) (e : Event) : busRun (hist ++ [e]) = (busRun hist).bind (busNext · e) := by
  simp only [busRun, List.foldl_append, List.foldl_cons, List.foldl_nil]

/-- A step without an event has to leave the bus. -/
theorem BusOrder.congr {b : Bus} (h : BusOrder s) (hh : t.hist = s.hist) (hs : busOf s = b) (ht : busOf t = b) :
    BusOrder t := by
  rw [BusOrder, hh, ht, ← hs]
  exact h

/-- An event that is allowed next takes the bus to where the registers are after it. -/
theorem BusOrder.append {e : Event} {b b' : Bus} (h : BusOrder s) (hh : t.hist = s.hist ++ [e]) (hs : busOf s = b)
    (ht : busOf t = b') (hn : busNext b e = some b') : BusOrder t := by
  have hrun : busRun s.hist = some b := hs ▸ h
  rw [BusOrder, hh, ht, busRun_append, hrun, Option.bind_some, hn]

/-- While a call is on the bus, another caller may get a response that no transaction precedes (R95). -/
theorem busNext_bystander {x : Response} (hx : busless x = true) (hc : ∀ d, s.cur = some d → c ≠ framedCaller d) :
    busNext (busOf s) (.respond c x) = some (busOf s) := by
  unfold busOf
  split
  next d _ hd => simp [busNext, bystander, hx, hc d hd]
  next d _ hd => simp [busNext, bystander, hx, hc d hd]
  next d _ hd => simp [busNext, bystander, hx, hc d hd]
  next d _ _ hd _ => simp [busNext, bystander, hx, hc d hd]
  next => simp [busNext, hx]

/-- The call in `CUR` is ACTIVE, so a caller whose request is pending has none on the bus (R35). -/
theorem BlockInv.ne_of_pending {r : Request} (h : BlockInv s) (hs : reqAt c s = .pending r) (hc : s.cur = some d) :
    c ≠ framedCaller d := by
  rintro rfl
  rcases h.framer.idle_or_inCall with ⟨-, -, hn⟩ | ⟨-, e, he⟩
  · exact absurd (hn.symm.trans hc) nofun
  · obtain rfl := he.eq_of_cur hc
    exact absurd (hs.symm.trans he.active) nofun

/-- A response of PACK or of the Reject step leaves the bus. -/
theorem BusOrder.respond {r : Request} {x : Response} (h : BusOrder s) (hi : BlockInv s)
    (hs : reqAt c s = .pending r) (hx : busless x = true) : BusOrder (respond c x s) :=
  h.append rfl rfl rfl (busNext_bystander hx fun _ hc => hi.ne_of_pending hs hc)

/-- LINE, SUBMIT and COMPLETE take the bus on, each from where the one before left it (R63-R65, R153). -/
theorem BusOrder.framerMove (h : BusOrder s) (hm : FramerMove d s t) : BusOrder t := by
  cases hm with
  | stay | accept => exact h
  | exhaust => exact h.append rfl rfl rfl rfl
  | grant e hf hs hl hq => exact h.congr rfl (busOf_idle hq) (busOf_line rfl)
  | line hf hs hc hq => exact h.append rfl (busOf_line hq) (busOf_build rfl hc) rfl
  | build hf hs hc hq => exact h.congr rfl (busOf_build hq hc) (busOf_submit rfl hc)
  | submit tx hf hs hc hq => exact h.append rfl (busOf_submit hq hc) (busOf_wait rfl hc) (if_pos rfl)
  | complete res hf hs hc hq hr =>
    exact h.append rfl (busOf_done hq hc hr) (busOf_idle rfl) ((if_pos rfl).trans (if_pos rfl))

theorem BusOrder.packMove {pol : AlignPolicy} {w : Nat} {bytes : List Byte} (h : BusOrder s) (hi : BlockInv s)
    (hm : PackMove c pol w bytes s t) : BusOrder t := by
  cases hm with
  | stay => exact h
  | invalid r hf hs => exact h.respond hi hs rfl
  | packed r hf hs => exact h.respond hi hs rfl
  | exhaust => exact h.append rfl rfl rfl rfl

/-- ANSWER takes the bus on from SUBMIT (R162). -/
theorem BusOrder.answer (h : BusOrder s) (hq : s.seq = .wait) (hc : s.cur = some d) (res : TResult)
    (live : Option (List Byte)) :
    BusOrder (emit (.result (framedCaller d) res) { s with res := some res, live := live, seq := .done }) :=
  h.append rfl (busOf_wait hq hc) (busOf_done rfl hc rfl) (if_pos rfl)

end Bus

/-- The order of the events is kept beside the invariant of the block, which says whose call is on the bus. -/
theorem blockInv_busOrder_keptByMoves : KeptByMoves fun s => BlockInv s ∧ BusOrder s where
  scheduled _ _ _ h := ⟨blockInv_keptByMoves.scheduled _ _ _ h.1, h.2⟩
  rejected h hs := ⟨blockInv_keptByMoves.rejected h.1 hs, h.2.respond h.1 hs rfl⟩
  framed h hi hm := ⟨blockInv_keptByMoves.framed h.1 hi hm, h.2.framerMove hm⟩
  packed h hm := ⟨blockInv_keptByMoves.packed h.1 hm, h.2.packMove h.1 hm⟩
  issued h hc hs hp hr := ⟨blockInv_keptByMoves.issued h.1 hc hs hp hr, h.2.append rfl rfl rfl rfl⟩
  taken h hx := ⟨blockInv_keptByMoves.taken h.1 hx, h.2⟩
  answered k h hok hq hc ht := ⟨blockInv_keptByMoves.answered k h.1 hok hq hc ht, h.2.answer hq hc _ _⟩
  reset level k h := ⟨blockInv_keptByMoves.reset level k h.1, h.2.append rfl rfl rfl rfl⟩

/-- Settles O55: each event of the block is the one its phase allows, and only the caller in `CUR` is on the bus. -/
theorem stepKeepsBusOrder : Obligations.StepKeepsBusOrder := fun _ _ hb ho h =>
  (blockInv_busOrder_keptByMoves.step ⟨hb, ho⟩ h).2

end Sys2Proof.Safety
end

section
/-! PROOFS of the encoding family (R80-R100): `DESC` is its seven fields, `decode` answers an operation on exactly the
`DESC` values that `encode` makes, so the opcode table's rows and R91's list follow field by field; the responses of an
operation; and the step that a placed request enables. -/

namespace Sys2Proof

/-! ### The fields of DESC (R81) -/

/-- The seven fields of R81, lowest bits first. -/
structure DescFields where
  op   : BitVec 3
  pol  : BitVec 1
  ord  : BitVec 1
  rsv0 : BitVec 3
  cmd  : Byte
  wb   : Byte
  rsv1 : BitVec 8

namespace DescFields

/-- The number that the fields make, each at its place in `DESC`. -/
def toNat (f : DescFields) : Nat :=
  f.op.toNat + 2 ^ 3 * f.pol.toNat + 2 ^ 4 * f.ord.toNat + 2 ^ 5 * f.rsv0.toNat + 2 ^ 8 * f.cmd.toNat +
    2 ^ 16 * f.wb.toNat + 2 ^ 24 * f.rsv1.toNat

theorem eq_of_toNat_eq {f g : DescFields} (h : f.toNat = g.toNat) : f = g := by
  cases f
  cases g
  simp only [toNat, mk.injEq] at h ⊢
  bv_omega

/-- The bitwise and, field by field. -/
def and (f g : DescFields) : DescFields :=
  { op := f.op &&& g.op, pol := f.pol &&& g.pol, ord := f.ord &&& g.ord, rsv0 := f.rsv0 &&& g.rsv0,
    cmd := f.cmd &&& g.cmd, wb := f.wb &&& g.wb, rsv1 := f.rsv1 &&& g.rsv1 }

end DescFields

/-- The fields of a `DESC` value. -/
def fieldsOf (desc : BitVec 32) : DescFields :=
  { op := fieldOp desc, pol := fieldPol desc, ord := fieldOrd desc, rsv0 := fieldRsv0 desc, cmd := fieldCmd desc,
    wb := fieldWb desc, rsv1 := fieldRsv1 desc }

theorem toNat_fieldsOf (desc : BitVec 32) : (fieldsOf desc).toNat = desc.toNat := by
  simp only [fieldsOf, DescFields.toNat, fieldOp, fieldPol, fieldOrd, fieldRsv0, fieldCmd, fieldWb, fieldRsv1,
    BitVec.extractLsb'_toNat, Nat.shiftRight_eq_div_pow]
  omega

/-- No bit of `DESC` lies outside the fields. -/
theorem fieldsOf_inj {a b : BitVec 32} : fieldsOf a = fieldsOf b ↔ a = b := by
  refine ⟨fun h => BitVec.eq_of_toNat_eq ?_, congrArg fieldsOf⟩
  rw [← toNat_fieldsOf, h, toNat_fieldsOf]

theorem fieldsOf_and (a b : BitVec 32) : fieldsOf (a &&& b) = (fieldsOf a).and (fieldsOf b) := by
  simp only [fieldsOf, DescFields.and, fieldOp, fieldPol, fieldOrd, fieldRsv0, fieldCmd, fieldWb, fieldRsv1,
    BitVec.extractLsb'_and]

/-! ### The DESC of an instruction (R83, R89, R98) -/

/-- The bit of a policy, at the width of its field (R83). -/
def policyField (pol : AlignPolicy) : BitVec 1 := (policyBit pol).setWidth 1

theorem policyOf_eq_iff {b : BitVec 1} {pol : AlignPolicy} : policyOf b = pol ↔ b = policyField pol := by
  revert b
  cases pol <;> decide

/-- The fields of an instruction's `DESC`: those it does not use are 0. -/
def Instr.fields : Instr → DescFields
  | .send cmd => { op := 0#3, pol := 0#1, ord := 0#1, rsv0 := 0#3, cmd := cmd, wb := 0#8, rsv1 := 0#8 }
  | .sendp cmd pol _ =>
    { op := 1#3, pol := policyField pol, ord := 0#1, rsv0 := 0#3, cmd := cmd, wb := 0#8, rsv1 := 0#8 }
  | .pack pol width _ =>
    { op := 2#3, pol := policyField pol, ord := 0#1, rsv0 := 0#3, cmd := 0#8, wb := width, rsv1 := 0#8 }

/-- The sum of R98 puts each operand at the place of its field, without a carry. -/
theorem encodeDesc_toNat (i : Instr) : (encodeDesc i).toNat = i.fields.toNat := by
  cases i with
  | send cmd =>
    simp only [encodeDesc, Instr.fields, DescFields.toNat]
    bv_omega
  | sendp cmd pol bytes | pack pol width bytes =>
    cases pol <;> simp only [encodeDesc, Instr.fields, DescFields.toNat, policyField, policyBit] <;> bv_omega

theorem fieldsOf_encodeDesc (i : Instr) : fieldsOf (encodeDesc i) = i.fields :=
  DescFields.eq_of_toNat_eq ((toNat_fieldsOf _).trans (encodeDesc_toNat i))

theorem eq_encodeDesc_iff {desc : BitVec 32} {i : Instr} : desc = encodeDesc i ↔ fieldsOf desc = i.fields := by
  rw [← fieldsOf_encodeDesc, fieldsOf_inj]

/-! ### decode against encode (R89, R90) -/

/-- What `decode` answers for an instruction: its operation and the operands that stand in `DESC`. -/
def Instr.decoded : Instr → Decoded
  | .send cmd => .send cmd
  | .sendp cmd pol _ => .sendp cmd pol
  | .pack pol width _ => .pack pol width

/-- `decode` answers an operation on the one `DESC` of that operation and its operands: on the way to its answer it
checks each field that the operation does not use. SEND asks for `LEN = 0` too. -/
theorem decode_eq_iff {desc len : BitVec 32} {i : Instr} :
    decode desc len = i.decoded ↔ desc = encodeDesc i ∧ ((rowOf i).lenZero = true → len = 0#32) := by
  simp only [eq_encodeDesc_iff, fieldsOf]
  unfold decode
  cases i with
  | send cmd =>
    simp only [Instr.decoded, Instr.fields, DescFields.mk.injEq, rowOf, rowSend]
    grind
  | sendp cmd pol bytes =>
    simp only [Instr.decoded, Instr.fields, DescFields.mk.injEq, rowOf, rowSendp, ← policyOf_eq_iff]
    grind
  | pack pol width bytes =>
    simp only [Instr.decoded, Instr.fields, DescFields.mk.injEq, rowOf, rowPack, ← policyOf_eq_iff]
    grind

/-! ### Requests against instructions (R80, R88, R90) -/

/-- `LEN` holds the payload's length exactly when it fits (R80, R88). -/
theorem encode_wellFormed (i : Instr) : (encode i).wellFormed = i.wellFormed := by
  have hfits (n : Nat) : n = n % 2 ^ 32 ↔ n < 2 ^ 32 := by omega
  cases i with
  | send cmd => rfl
  | sendp cmd pol bytes | pack pol width bytes =>
    simp only [encode, encodeData, Request.wellFormed, Instr.wellFormed, lenFits, BitVec.toNat_ofNat, hfits]

section Requests

variable {r : Request} {i : Instr}

/-- A request's `LEN` follows from its payload. -/
theorem encode_eq_iff (h : r.wellFormed = true) :
    encode i = r ↔ encodeDesc i = r.desc ∧ encodeData i = r.data := by
  obtain ⟨desc, len, data⟩ := r
  have hlen : data.length = len.toNat := of_decide_eq_true h
  have hofNat : BitVec.ofNat 32 data.length = len := by simp [hlen]
  simp only [encode, Request.mk.injEq]
  constructor
  · rintro ⟨hdesc, -, hdata⟩
    exact ⟨hdesc, hdata⟩
  · rintro ⟨hdesc, hdata⟩
    exact ⟨hdesc, hdata ▸ hofNat, hdata⟩

/-- Reading a request decodes its `DESC` and `LEN`, and takes the payload for SENDP and PACK. -/
theorem fetchRequest_eq_instr_iff_decode (h : r.wellFormed = true) :
    fetchRequest r = .instr i ↔
      decode r.desc r.len = i.decoded ∧ ((rowOf i).lenZero = false → encodeData i = r.data) := by
  unfold fetchRequest
  rw [Machine.readPayload_of_wellFormed h]
  cases i with
  | send cmd => cases decode r.desc r.len <;> simp [Instr.decoded, rowOf, rowSend]
  | sendp cmd pol bytes =>
    cases decode r.desc r.len <;> simp [Instr.decoded, rowOf, rowSendp, encodeData, eq_comm, and_assoc]
  | pack pol width bytes =>
    cases decode r.desc r.len <;> simp [Instr.decoded, rowOf, rowPack, encodeData, eq_comm, and_assoc]

/-- A request is read as `i` exactly when it is the encoding of `i`. -/
theorem fetchRequest_eq_instr_iff (h : r.wellFormed = true) : fetchRequest r = .instr i ↔ encode i = r := by
  have hempty : r.len = 0#32 ↔ r.data = [] := by
    rw [← List.length_eq_zero_iff, of_decide_eq_true h, ← BitVec.toNat_inj]
    rfl
  rw [fetchRequest_eq_instr_iff_decode h, decode_eq_iff, encode_eq_iff h]
  cases i <;> simp [rowOf, rowSend, rowSendp, rowPack, encodeData, hempty, eq_comm]

end Requests

/-- Settles O1: a well-formed instruction's encoding is a request, and a request is read as what it encodes. -/
theorem decodeOfEncodeIsIdentity : Obligations.DecodeOfEncodeIsIdentity := by
  intro i hi
  have hwf : (encode i).wellFormed = true := (encode_wellFormed i).trans hi
  exact ⟨hwf, (fetchRequest_eq_instr_iff hwf).mpr rfl⟩

/-- Settles O2: a request is read as nothing but what it encodes. -/
theorem encodeOfDecodeIsIdentity : Obligations.EncodeOfDecodeIsIdentity := by
  intro r i hwf hfetch
  obtain rfl := (fetchRequest_eq_instr_iff hwf).mp hfetch
  exact ⟨(encode_wellFormed i).symm.trans hwf, rfl⟩

/-! ### Which requests are SEND, SENDP, PACK or illegal (R89, R91) -/

section Operations

variable {desc len : BitVec 32}

theorem decodes_send_iff : (∃ cmd, decode desc len = .send cmd) ↔
    fieldOp desc = 0#3 ∧ fieldPol desc = 0#1 ∧ fieldOrd desc = 0#1 ∧ fieldRsv0 desc = 0#3 ∧ fieldWb desc = 0#8 ∧
      fieldRsv1 desc = 0#8 ∧ len = 0#32 := by
  have h cmd : decode desc len = .send cmd ↔ _ := decode_eq_iff (i := .send cmd)
  simp [h, eq_encodeDesc_iff, fieldsOf, Instr.fields, rowOf, rowSend, and_assoc]

theorem decodes_sendp_iff : (∃ cmd pol, decode desc len = .sendp cmd pol) ↔
    fieldOp desc = 1#3 ∧ fieldOrd desc = 0#1 ∧ fieldRsv0 desc = 0#3 ∧ fieldWb desc = 0#8 ∧ fieldRsv1 desc = 0#8 := by
  have h cmd pol : decode desc len = .sendp cmd pol ↔ _ := decode_eq_iff (i := .sendp cmd pol [])
  simp [h, eq_encodeDesc_iff, fieldsOf, Instr.fields, rowOf, rowSendp, ← policyOf_eq_iff]

theorem decodes_pack_iff : (∃ pol width, decode desc len = .pack pol width) ↔
    fieldOp desc = 2#3 ∧ fieldOrd desc = 0#1 ∧ fieldRsv0 desc = 0#3 ∧ fieldCmd desc = 0#8 ∧ fieldRsv1 desc = 0#8 := by
  have h pol width : decode desc len = .pack pol width ↔ _ := decode_eq_iff (i := .pack pol width [])
  simp [h, eq_encodeDesc_iff, fieldsOf, Instr.fields, rowOf, rowPack, ← policyOf_eq_iff]

/-- A verdict that is no operation is illegal. -/
theorem decodes_illegal_iff : (∃ why, decode desc len = .illegal why) ↔
    ¬ (∃ cmd, decode desc len = .send cmd) ∧ ¬ (∃ cmd pol, decode desc len = .sendp cmd pol) ∧
      ¬ ∃ pol width, decode desc len = .pack pol width := by
  cases decode desc len <;> simp

/-- `OP` is reserved when it is no operation's (R92). -/
theorem three_le_op_iff (op : BitVec 3) : 3 ≤ op.toNat ↔ op ≠ 0#3 ∧ op ≠ 1#3 ∧ op ≠ 2#3 := by
  revert op
  decide

theorem bit_ne_zero_iff (b : BitVec 1) : b ≠ 0#1 ↔ b = 1#1 := by
  revert b
  decide

/-! ### The rows of the opcode table (R89) -/

/-- A mask and its match select `DESC` field by field. -/
theorem selects_iff {row : TableRow} : row.selects desc len = true ↔
    (fieldsOf desc).and (fieldsOf row.mask) = fieldsOf row.pattern ∧ (row.lenZero = true → len = 0#32) := by
  simp [TableRow.selects, ← fieldsOf_and, fieldsOf_inj, imp_iff_not_or]

theorem rowSend_selects_iff : rowSend.selects desc len = true ↔ ∃ cmd, decode desc len = .send cmd := by
  have hmask : fieldsOf rowSend.mask =
    ⟨.allOnes 3, .allOnes 1, .allOnes 1, .allOnes 3, 0#8, .allOnes 8, .allOnes 8⟩ := rfl
  have hpattern : fieldsOf rowSend.pattern = ⟨0#3, 0#1, 0#1, 0#3, 0#8, 0#8, 0#8⟩ := rfl
  rw [selects_iff, hmask, hpattern, decodes_send_iff]
  simp only [fieldsOf, DescFields.and, BitVec.and_allOnes, BitVec.and_zero, DescFields.mk.injEq, rowSend]
  tauto

theorem rowSendp_selects_iff : rowSendp.selects desc len = true ↔ ∃ cmd pol, decode desc len = .sendp cmd pol := by
  have hmask : fieldsOf rowSendp.mask =
    ⟨.allOnes 3, 0#1, .allOnes 1, .allOnes 3, 0#8, .allOnes 8, .allOnes 8⟩ := rfl
  have hpattern : fieldsOf rowSendp.pattern = ⟨1#3, 0#1, 0#1, 0#3, 0#8, 0#8, 0#8⟩ := rfl
  rw [selects_iff, hmask, hpattern, decodes_sendp_iff]
  simp only [fieldsOf, DescFields.and, BitVec.and_allOnes, BitVec.and_zero, DescFields.mk.injEq, rowSendp]
  tauto

theorem rowPack_selects_iff : rowPack.selects desc len = true ↔ ∃ pol width, decode desc len = .pack pol width := by
  have hmask : fieldsOf rowPack.mask =
    ⟨.allOnes 3, 0#1, .allOnes 1, .allOnes 3, .allOnes 8, 0#8, .allOnes 8⟩ := rfl
  have hpattern : fieldsOf rowPack.pattern = ⟨2#3, 0#1, 0#1, 0#3, 0#8, 0#8, 0#8⟩ := rfl
  rw [selects_iff, hmask, hpattern, decodes_pack_iff]
  simp only [fieldsOf, DescFields.and, BitVec.and_allOnes, BitVec.and_zero, DescFields.mk.injEq, rowPack]
  tauto

end Operations

/-- Settles O5: each row tests the fields that its operation does not use, and the last clause is the complement. -/
theorem opcodeRowsSelectWhatDecodes : Obligations.OpcodeRowsSelectWhatDecodes := by
  intro desc len
  refine ⟨rowSend_selects_iff, rowSendp_selects_iff, rowPack_selects_iff, ?_⟩
  rw [decodes_illegal_iff, ← rowSend_selects_iff, ← rowSendp_selects_iff, ← rowPack_selects_iff]
  simp [opcodeTable]

/-- Settles O4: R91's list is the complement of the field values of the three operations. -/
theorem illegalExactlyAsListed : Obligations.IllegalExactlyAsListed := by
  intro desc len
  rw [decodes_illegal_iff, decodes_send_iff, decodes_sendp_iff, decodes_pack_iff, ← bit_ne_zero_iff, three_le_op_iff]
  grind

/-- Settles O3: `decode` evaluated on the listed values; only SEND's branch reads `LEN`. -/
theorem referenceEncodingsDecode : Obligations.ReferenceEncodingsDecode :=
  ⟨rfl, rfl, fun _ => rfl, fun _ => rfl, fun _ => rfl, fun _ => rfl, fun _ => rfl, fun _ => ⟨.reservedOp, rfl⟩,
    .byteOrder, rfl⟩

end Sys2Proof

namespace Sys2Proof.Machine

/-! ### The responses of an operation (R95) -/

section Responses

variable {c c' : CallerId} {rsp : Response} {s t : State}

/-- A response that waits after a delivery is the one delivered, or waited before. -/
theorem rspAt_of_respond {x : Response} (h : rspAt c (respond c' x s) = some rsp) :
    rspAt c s = some rsp ∨ rsp = x := by
  change rspAt c (setRsp c' (some x) (setReq c' .empty s)) = some rsp at h
  rw [rspAt_setRsp] at h
  split at h
  · exact .inr (Option.some.inj h).symm
  · exact .inl h

/-- Only COMPLETE delivers a response: the transport's result (R163). -/
theorem FramerMove.delivers {d : Framed} (h : FramerMove d s t) (hr : rspAt c t = some rsp) :
    rspAt c s = some rsp ∨ ∃ res, rsp = framedResponse res := by
  cases h with
  | complete res => exact (rspAt_of_respond hr).imp_right fun e => ⟨res, e⟩
  | _ => exact .inl hr

/-- PACK delivers its words or INVALID_WIDTH (R122). -/
theorem PackMove.delivers {pol : AlignPolicy} {w : Nat} {bytes : List Byte} (h : PackMove c' pol w bytes s t)
    (hr : rspAt c t = some rsp) :
    rspAt c s = some rsp ∨ rsp = .invalidWidth ∨ ∃ count ws, rsp = .packed count ws := by
  cases h with
  | stay | exhaust => exact .inl hr
  | invalid => exact (rspAt_of_respond hr).imp_right .inl
  | packed => exact (rspAt_of_respond hr).imp_right fun e => .inr ⟨_, _, e⟩

theorem framedResponse_cases (res : TResult) :
    framedResponse res = .ok ∨ ∃ e, framedResponse res = .transportError e := by
  cases res with
  | ok => exact .inl rfl
  | err e => exact .inr ⟨e, rfl⟩

end Responses

/-- Settles O51: a new response is what the Framer's COMPLETE or the Packer delivers. -/
theorem responsesPerOperation : Obligations.ResponsesPerOperation := by
  intro i s t rsp he hr
  rcases exec_cases i s with ⟨d, -, rfl, hnext⟩ | ⟨pol, width, bytes, rfl, hnext⟩
  · obtain rfl : framerStep d s = t := by simpa [hnext] using he
    refine ((framerStep_move d s).delivers hr).imp_right ?_
    rintro ⟨res, rfl⟩
    cases d <;> exact framedResponse_cases res
  · obtain rfl : packStep s.turn pol (widthOperand width) bytes s = t := by simpa [hnext] using he
    exact (packStep_move s.turn pol (widthOperand width) bytes s).delivers hr

/-! ### A placed request (log 8) -/

section Placed

variable {r : Request} {s : State}

theorem loadRequest_fatal : (loadRequest r s).fatal = false := by simp [loadRequest]

theorem nextMove_loadRequest : nextMove (loadRequest r s) = .serve 0 := rfl

theorem reqAt_loadRequest (h : 0 < s.req.length) : reqAt 0 (loadRequest r s) = .pending r := by
  change reqAt 0 (setReq 0 (.pending r) (takeStep 0 { s with fatal := false })) = .pending r
  simp [reqAt_setReq, h]

/-- The step after a request is placed runs what the request is read as. -/
theorem step_loadRequest {i : Instr} (h : 0 < s.req.length) (hi : fetchRequest r = .instr i) :
    step (loadRequest r s) = exec i { advance (loadRequest r s) with turn := 0 } :=
  step_eq_exec loadRequest_fatal nextMove_loadRequest (.pending r (reqAt_loadRequest h) hi)

end Placed

/-- Settles O7: the placed request is pending, its caller is served next, and the block is not halted. -/
theorem fetchWordIsRunNext : Obligations.FetchWordIsRunNext := fun _ _ _ _ h hi =>
  ⟨step_loadRequest h hi, by simp only [decodeTableWord, hi]⟩

end Sys2Proof.Machine
end

section
/-! PROOFS of the Packer family (R111-R118, R120, R122-R128, R130): the words of `pack` as groups of the padded byte
sequence, what that sequence holds under either policy, and the step in which PACK completes. -/

namespace Sys2Proof.Machine

/-! ### The words of pack (R111, R117, R118) -/

section Pack

variable {bytes : List Byte} {pol : AlignPolicy} {w : Nat}

/-- A width of at least one byte passes the check, and no other error exists (R120). -/
theorem pack_of_pos (hw : 1 ≤ w) : pack bytes pol w = .words (packWords bytes pol w) :=
  if_neg (Nat.ne_of_gt hw)

@[simp] theorem packWords_length : (packWords bytes pol w).length = wordCount bytes.length w :=
  groupWords_length _ _ _

/-- No byte, no group, whatever the pad would be (R117). -/
theorem packWords_nil (hw : 1 ≤ w) : packWords [] pol w = [] :=
  List.eq_nil_of_length_eq_zero (packWords_length.trans (wordCount_zero hw))

end Pack

/-- Settles O8: the empty sequence needs no word, so no group is formed. -/
theorem packOfEmptyIsEmpty : Obligations.PackOfEmptyIsEmpty := fun _ _ hw => by
  rw [pack_of_pos hw, packWords_nil hw]

/-- Settles O9: the width check comes first. -/
theorem packOfZeroWidthIsInvalid : Obligations.PackOfZeroWidthIsInvalid := fun _ _ => ⟨rfl, nofun⟩

/-- Settles O11: each of the `ceil(n/w)` groups is a word of the width. -/
theorem packGivesCountedBoundedWords : Obligations.PackGivesCountedBoundedWords := fun _ _ _ hw =>
  ⟨_, pack_of_pos hw, packWords_length, groupWords_lt _ _ _⟩

/-! ### The padded byte sequence (R112, R113) -/

/-- The pad is in front: byte `i` is a pad byte, or the byte that stands `p` places earlier in the input (R112). -/
theorem paddedBytes_rightAlign_getD (bytes : List Byte) (w i : Nat) :
    (paddedBytes bytes .rightAlign w).getD i 0#8 =
      if padCount bytes.length w ≤ i then bytes.getD (i - padCount bytes.length w) 0#8 else 0#8 := by
  change (zeros (padCount bytes.length w) ++ bytes).getD i 0#8 = _
  split
  case isTrue hi => rw [List.getD_append_right _ _ _ _ (by simpa using hi), zeros_length]
  case isFalse hi =>
    rw [List.getD_append _ _ _ _ (by simpa using hi)]
    exact getD_replicate _ _ _

/-- The pad is behind: byte `i` is byte `i` of the input, or a pad byte (R113). -/
theorem paddedBytes_leftAlign_getD (bytes : List Byte) (w i : Nat) :
    (paddedBytes bytes .leftAlign w).getD i 0#8 =
      if i < bytes.length then bytes.getD i 0#8 else 0#8 := by
  change (bytes ++ zeros (padCount bytes.length w)).getD i 0#8 = _
  split
  case isTrue hi => exact List.getD_append _ _ _ _ hi
  case isFalse hi =>
    rw [List.getD_append_right _ _ _ _ (Nat.le_of_not_lt hi)]
    exact getD_replicate _ _ _

section Padded

variable {bytes : List Byte} {w : Nat}

/-- Zero bytes in front do not change the big-endian value. -/
theorem beValue_paddedBytes_rightAlign : beValue (paddedBytes bytes .rightAlign w) = beValue bytes := by
  simp [paddedBytes, beValue_append]

/-- Each zero byte behind multiplies the big-endian value by `2^8`. -/
theorem beValue_paddedBytes_leftAlign :
    beValue (paddedBytes bytes .leftAlign w) = beValue bytes * 2 ^ (8 * padCount bytes.length w) := by
  simp [paddedBytes, beValue_append]

/-- Without a pad the padded sequence is the input (R124). -/
theorem paddedBytes_of_padCount_eq_zero (pol : AlignPolicy) (hp : padCount bytes.length w = 0) :
    paddedBytes bytes pol w = bytes := by
  cases pol <;> simp [paddedBytes, zeros, hp]

end Padded

/-! ### Lanes (R116) -/

/-- The lanes of the word of a full group are the bytes of the group. -/
theorem lane_beValue_getD {l : List Byte} {w k : Nat} (hl : l.length = w) (hk : k < w) :
    lane w k (beValue l) = l.getD k 0#8 := by
  subst hl
  rw [lane_beValue l k hk, List.getD_eq_getElem]

/-- Lane `k` of word `j` is byte `j*w+k` of the padded sequence, under either policy. -/
theorem lane_packWords_getD (bytes : List Byte) (pol : AlignPolicy) {w j k : Nat} (hw : 1 ≤ w)
    (hj : j < wordCount bytes.length w) (hk : k < w) :
    lane w k ((packWords bytes pol w).getD j 0) = (paddedBytes bytes pol w).getD (j * w + k) 0#8 := by
  have hend : j * w + w ≤ (paddedBytes bytes pol w).length := by
    rw [paddedBytes_length bytes pol hw, ← Nat.succ_mul]
    exact Nat.mul_le_mul_right w hj
  have hgroup : (((paddedBytes bytes pol w).drop (j * w)).take w).length = w := by
    rw [List.length_take, List.length_drop]
    omega
  rw [packWords, groupWords_getD _ _ _ _ hj, lane_beValue_getD hgroup hk]
  simp [List.getD_eq_getElem?_getD, hk]

/-- Settles O12: every lane is a byte of the padded sequence, which is a pad byte or a byte of the input. -/
theorem packLanesHoldBytes : Obligations.PackLanesHoldBytes := fun bytes w _ _ hw hj hk =>
  ⟨(lane_packWords_getD bytes _ hw hj hk).trans (paddedBytes_rightAlign_getD bytes w _),
    (lane_packWords_getD bytes _ hw hj hk).trans (paddedBytes_leftAlign_getD bytes w _)⟩

/-! ### The policies, and payloads shorter than a word (R124, R125) -/

/-- Settles O13: both policies group the same bytes, since there is no pad. -/
theorem packPoliciesAgreeWithoutPad : Obligations.PackPoliciesAgreeWithoutPad := by
  intro bytes w hw hmod
  have hpad := (padCount_eq_zero_iff hw).mpr hmod
  rw [pack_of_pos hw, pack_of_pos hw, packWords, packWords, paddedBytes_of_padCount_eq_zero _ hpad,
    paddedBytes_of_padCount_eq_zero _ hpad]

section Short

variable {bytes : List Byte} {w : Nat} (hn : 0 < bytes.length) (hlt : bytes.length < w)
include hn hlt

theorem wordCount_of_short : wordCount bytes.length w = 1 :=
  Nat.le_antisymm (wordCount_le_of_le_mul (by omega) (by omega)) (wordCount_pos (by omega) hn)

theorem padCount_of_short : padCount bytes.length w = w - bytes.length := by
  rw [padCount, wordCount_of_short hn hlt, Nat.one_mul]

/-- The one word's lanes are the whole padded sequence. -/
theorem pack_of_short (pol : AlignPolicy) : pack bytes pol w = .words [beValue (paddedBytes bytes pol w)] := by
  have hlen := paddedBytes_length bytes pol (show 1 ≤ w by omega)
  rw [wordCount_of_short hn hlt, Nat.one_mul] at hlen
  rw [pack_of_pos (by omega), packWords, wordCount_of_short hn hlt, groupWords, groupWords,
    List.take_of_length_le hlen.le]

end Short

/-- Settles O14: the one word is the value of the padded sequence, and the pad is the rest of the word. -/
theorem packOfShortPayloadIsOneWord : Obligations.PackOfShortPayloadIsOneWord := by
  intro bytes w hn hlt
  rw [pack_of_short hn hlt, pack_of_short hn hlt, beValue_paddedBytes_rightAlign, beValue_paddedBytes_leftAlign,
    padCount_of_short hn hlt]
  exact ⟨rfl, rfl⟩

/-! ### The words as one number, and back to the bytes (R127, R128) -/

/-- Settles O15: the words read as one number are the value of the padded sequence. -/
theorem packKeepsBigEndianValue : Obligations.PackKeepsBigEndianValue := by
  intro bytes w hw
  have hvalue pol : wordsValue w (packWords bytes pol w) = beValue (paddedBytes bytes pol w) :=
    wordsValue_groupWords _ _ _ (paddedBytes_length bytes pol hw)
  exact ⟨(hvalue _).trans beValue_paddedBytes_rightAlign, (hvalue _).trans beValue_paddedBytes_leftAlign⟩

/-- Settles O17: the image is the padded sequence, of which `unpack` keeps the end that has no pad. -/
theorem unpackOfPackIsIdentity : Obligations.UnpackOfPackIsIdentity := by
  intro bytes pol w hw
  have himage := imageOfPackIsPaddedBytes bytes pol w hw
  cases pol <;> simp [unpack, himage, paddedBytes]

/-! ### Where PACK completes (R122, R123, R130) -/

/-- With a width that is not 0 the response holds the words and their count (R123). -/
theorem packResponse_of_ne_zero {pol : AlignPolicy} {w : Nat} {bytes : List Byte} (hw : w ≠ 0) :
    packResponse pol w bytes = .packed (BitVec.ofNat 32 (wordCount bytes.length w)) (packWords bytes pol w) :=
  if_neg hw

theorem widthOperand_ne_zero {width : Byte} (h : width ≠ 0#8) : widthOperand width ≠ 0 :=
  fun h0 => h (BitVec.eq_of_toNat_eq h0)

/-- `COUNT` is at most the length, so 32 bits hold it (R130). -/
theorem ofNat_wordCount_toNat {n w : Nat} (hw : 1 ≤ w) (hn : n < 2 ^ 32) :
    (BitVec.ofNat 32 (wordCount n w)).toNat = wordCount n w :=
  Nat.mod_eq_of_lt (Nat.lt_of_le_of_lt (wordCount_le hw) hn)

/-- Settles O18: the Packer's step responds with the words, and responding writes the two slots and the history. -/
theorem packRequestCompletes : Obligations.PackRequestCompletes := by
  intro pol width bytes s r hf hs hwidth hfit
  have hw := widthOperand_ne_zero hwidth
  refine ⟨?_, ofNat_wordCount_toNat (Nat.pos_of_ne_zero hw)⟩
  have hstep := packStep_of_pending (pol := pol) hf hs hfit
  rw [packResponse_of_ne_zero hw] at hstep
  exact congrArg Host.Outcome.next hstep

end Sys2Proof.Machine
end

section
/-! PROOFS of the Framer family (R140-R169): the Framer's step in each phase of a call, the transaction that BUILD makes,
the whole call over seven steps, and what the transport makes of a transaction. -/

namespace Sys2Proof.Machine

open Sys2Proof.Safety

/-! ### The Framer's step, phase by phase (R157-R163) -/

section Phases

variable {d : Framed} {s : State} (hf : s.fatal = false)
include hf

theorem framerStep_of_pending {r : Request} (hs : reqAt (framedCaller d) s = .pending r) :
    framerStep d s = acceptStep d s := by
  simp only [framerStep, hf, hs, Bool.false_eq_true, if_false]

theorem framerStep_of_accepted {r : Request} (hs : reqAt (framedCaller d) s = .pending r)
    (hfit : framedFits s.params d = true) : framerStep d s = setReq (framedCaller d) (.waiting d) s :=
  (framerStep_of_pending hf hs).trans (if_pos hfit)

theorem framerStep_of_waiting {e : Framed} (hs : reqAt (framedCaller d) s = .waiting e) :
    framerStep d s = grantStep d s := by
  simp only [framerStep, hf, hs, Bool.false_eq_true, if_false]

theorem framerStep_of_granted {e : Framed} (hs : reqAt (framedCaller d) s = .waiting e) (hl : s.lock = .free)
    (hq : s.seq = .idle) : framerStep d s = { setReq (framedCaller d) .active s with
      lock := .held (framedCaller d), cur := some d, seq := .line } :=
  (framerStep_of_waiting hf hs).trans (if_pos ⟨hl, hq⟩)

section Active

variable (hs : reqAt (framedCaller d) s = .active) (hc : s.cur = some d)
include hs hc

theorem framerStep_of_active : framerStep d s = activeStep d s := by
  simp only [framerStep, hf, hs, hc, if_true, Bool.false_eq_true, if_false]

theorem framerStep_of_line (hq : s.seq = .line) : framerStep d s = lineStep d s := by
  rw [framerStep_of_active hf hs hc, activeStep, hq]

theorem framerStep_of_build (hq : s.seq = .build) : framerStep d s = buildStep d s := by
  rw [framerStep_of_active hf hs hc, activeStep, hq]

theorem framerStep_of_submit (hq : s.seq = .submit) : framerStep d s = submitStep d s := by
  rw [framerStep_of_active hf hs hc, activeStep, hq]

theorem framerStep_of_done (hq : s.seq = .done) : framerStep d s = completeStep d s := by
  rw [framerStep_of_active hf hs hc, activeStep, hq]

end Active

end Phases

theorem submitStep_of_tx {d : Framed} {s : State} {tx : Transaction} (ht : s.tx = some tx) :
    submitStep d s = emit (.submit (framedCaller d) tx) { s with seq := .wait } := by
  simp only [submitStep, ht]

theorem completeStep_of_res {d : Framed} {s : State} {res : TResult} (hr : s.res = some res) :
    completeStep d s = respond (framedCaller d) (framedResponse res)
      { s with
        wbuf := [], tx := none, res := none, cur := none, lock := .free, seq := .idle
        device := s.device ++ s.live.toList, live := none } := by
  simp only [completeStep, hr]

/-! ### The transaction of a call (R143, R148, R150, R160) -/

/-- A payload needs a word (R114). -/
theorem packWords_ne_nil {bytes : List Byte} {w : Nat} (pol : AlignPolicy) (hw : 1 ≤ w) (hb : bytes ≠ []) :
    packWords bytes pol w ≠ [] := by
  have hcount := wordCount_pos hw (List.length_pos_of_ne_nil hb)
  rw [← packWords_length (pol := pol)] at hcount
  exact List.ne_nil_of_length_pos hcount

section Transactions

variable (p : Params) (c : CallerId) (cmd : Byte) (pol : AlignPolicy) (bytes : List Byte)

/-- An empty payload is absent; its declared length is that of every payload, `8*n`. -/
theorem buildTransaction_sendp : buildTransaction p (.sendp c cmd pol bytes) =
    { command := cmd
      payload := if bytes = [] then none else some (packWords bytes pol p.wordBytes)
      payloadBitLength := 8 * bytes.length } := by
  cases bytes <;> simp [buildTransaction]

/-- No word is the packing of no byte, so BUILD writes the packed words in either case. -/
theorem buildWords_sendp : buildWords p (.sendp c cmd pol bytes) = packWords bytes pol p.wordBytes := by
  cases bytes with
  | nil => exact (packWords_nil p.wordBytes.pos).symm
  | cons b rest => simp [buildWords]

end Transactions

/-! ### The whole call (R142, R147) -/

/-- The next move of the plan is used up, and `rest` is left. -/
def afterMove (rest : List Move) (s : State) : State := { s with plan := rest, draws := s.draws + 1 }

section Call

variable {d : Framed} {s t : State} {rest : List Move}

theorem nextMove_of_plan {m : Move} (hp : s.plan = m :: rest) : nextMove s = m := by
  simp only [nextMove, hp]

theorem advance_of_plan {m : Move} (hp : s.plan = m :: rest) : advance s = afterMove rest s := by
  simp only [advance, hp, List.tail_cons, afterMove]

/-- A served caller whose slot holds the call `d` takes the Framer's step for it. -/
theorem step_eq_framerStep (hf : s.fatal = false) (hp : s.plan = .serve (framedCaller d) :: rest)
    (hi : HeldBy (framedCaller d) s (framedInstr d))
    (ht : framerStep d { afterMove rest s with turn := framedCaller d } = t) : step s = .next t := by
  have hheld : HeldBy (framedCaller d) { advance s with turn := framedCaller d } (framedInstr d) := by
    cases hi with
    | pending r hs hi => exact .pending r hs hi
    | waiting e hs hi => exact .waiting e hs hi
    | active e hs hc he hi => exact .active e hs hc he hi
  rw [step_eq_exec hf (nextMove_of_plan hp) hheld, exec_framedInstr _ _ rfl, advance_of_plan hp, ht]

theorem step_answer_of_wait {tx : Transaction} {res : TResult} {k : Nat} (hf : s.fatal = false)
    (hp : s.plan = .answer res k :: rest) (hq : s.seq = .wait) (hc : s.cur = some d) (ht : s.tx = some tx)
    (hok : resultAllowed s.params res = true) :
    step s = .next (emit (.result (framedCaller d) res)
      { afterMove rest s with res := some res, live := some (receivedAfter s.params tx res k), seq := .done }) := by
  rw [step, nextMove_of_plan hp, advance_of_plan hp]
  exact congrArg Host.Outcome.next (answerStep_of_wait (s := afterMove rest s) k hf hq hc ht hok)

end Call

/-- A run goes on from the state that its first step answers. -/
theorem run_of_step {s t : State} {n : Nat} {o : Host.Outcome State Fault Refusal} (h : step s = .next t)
    (ht : Host.Core.run core n t = o) : Host.Core.run core (n + 1) s = o := by
  have hrun : Host.Core.run core (n + 1) s = Host.Core.run core n t := by
    have hstep : core.step s = .next t := h
    simp only [Host.Core.run, hstep]
  exact hrun.trans ht

/-- After GRANT: the call is in `CUR`, and LINE is next. -/
def granted (d : Framed) (rest : List Move) (s : State) : State :=
  { s with
    lock := .held (framedCaller d), cur := some d, seq := .line, req := s.req.set (framedCaller d) .active
    plan := rest, draws := s.draws + 2, turn := framedCaller d }

/-- After SUBMIT: the transaction is built, and the transport is asked for its answer. -/
def submitted (d : Framed) (rest : List Move) (s : State) : State :=
  { s with
    cl := .command, wbuf := writeBuffer (buildWords s.params d) s.wbuf
    tx := some (buildTransaction s.params d), seq := .wait
    hist := s.hist ++ [.setLine (framedCaller d) .command, .submit (framedCaller d) (buildTransaction s.params d)]
    plan := rest, draws := s.draws + 3, turn := framedCaller d }

/-- After COMPLETE: everything is released, and the result is the response. -/
def completed (d : Framed) (tx : Transaction) (res : TResult) (k : Nat) (rest : List Move) (s : State) : State :=
  { s with
    wbuf := [], tx := none, res := none, cur := none, lock := .free, seq := .idle, live := none
    req := s.req.set (framedCaller d) .empty
    rsp := s.rsp.set (framedCaller d) (some (framedResponse res))
    hist := s.hist ++ [.result (framedCaller d) res, .respond (framedCaller d) (framedResponse res)]
    device := s.device ++ [receivedAfter s.params tx res k]
    plan := rest, draws := s.draws + 2, turn := framedCaller d }

section Segments

variable {d : Framed} {s : State} {n : Nat} {rest : List Move} (hf : s.fatal = false)
include hf

/-- ACCEPT and GRANT. -/
theorem run_granted {r : Request} (hs : reqAt (framedCaller d) s = .pending r)
    (hi : fetchRequest r = .instr (framedInstr d)) (hfit : framedFits s.params d = true) (hl : s.lock = .free)
    (hq : s.seq = .idle) (hp : s.plan = .serve (framedCaller d) :: .serve (framedCaller d) :: rest) :
    Host.Core.run core (n + 2) s = Host.Core.run core n (granted d rest s) := by
  have hwaiting : reqAt (framedCaller d) (setReq (framedCaller d) (.waiting d) s) = .waiting d :=
    reqAt_setReq_self _ (by simp [hs])
  refine run_of_step (step_eq_framerStep hf hp (.pending r hs hi) (framerStep_of_accepted hf hs hfit)) ?_
  refine run_of_step (step_eq_framerStep hf rfl (.waiting d hwaiting rfl)
    (framerStep_of_granted hf hwaiting hl hq)) ?_
  simp only [granted, setReq, afterMove, List.set_set]

/-- LINE, BUILD and SUBMIT. -/
theorem run_submitted (hs : reqAt (framedCaller d) s = .active) (hc : s.cur = some d) (hq : s.seq = .line)
    (hp : s.plan = .serve (framedCaller d) :: .serve (framedCaller d) :: .serve (framedCaller d) :: rest) :
    Host.Core.run core (n + 3) s = Host.Core.run core n (submitted d rest s) := by
  refine run_of_step (step_eq_framerStep hf hp (.active d hs hc rfl rfl) (framerStep_of_line hf hs hc hq)) ?_
  refine run_of_step (step_eq_framerStep hf rfl (.active d hs hc rfl rfl) (framerStep_of_build hf hs hc rfl)) ?_
  refine run_of_step (step_eq_framerStep hf rfl (.active d hs hc rfl rfl) (framerStep_of_submit hf hs hc rfl)) ?_
  simp [submitted, lineStep, buildStep, submitStep, emit, afterMove]

/-- ANSWER and COMPLETE. -/
theorem run_completed {tx : Transaction} {res : TResult} {k : Nat} (hs : reqAt (framedCaller d) s = .active)
    (hc : s.cur = some d) (hq : s.seq = .wait) (ht : s.tx = some tx) (hok : resultAllowed s.params res = true)
    (hp : s.plan = .answer res k :: .serve (framedCaller d) :: rest) :
    Host.Core.run core (n + 2) s = Host.Core.run core n (completed d tx res k rest s) := by
  refine run_of_step (step_answer_of_wait hf hp hq hc ht hok) ?_
  refine run_of_step (step_eq_framerStep hf rfl (.active d hs hc rfl rfl) (framerStep_of_done hf hs hc rfl)) ?_
  simp [completed, completeStep, respond, setRsp, setReq, emit, afterMove]

end Segments

/-- The whole call of a framed request that passes the buffer check, from an idle Framer: the transaction is what BUILD
makes of the request, and what the Framer held in between is gone. -/
theorem run_wholeCall {d : Framed} {s : State} {r : Request} {res : TResult} {k : Nat} {rest : List Move} {c : CallerId}
    (hb : BlockInv s) (hf : s.fatal = false) (hq : s.seq = .idle) (hd : framedCaller d = c)
    (hs : reqAt c s = .pending r) (hi : fetchRequest r = .instr (framedInstr d))
    (hfit : framedFits s.params d = true) (hok : resultAllowed s.params res = true)
    (hp : s.plan = [.serve c, .serve c, .serve c, .serve c, .serve c, .answer res k, .serve c] ++ rest) :
    Host.Core.run core 7 s =
      .next { s with
        cl := .command
        req := s.req.set c .empty
        rsp := s.rsp.set c (some (framedResponse res))
        hist := s.hist ++ [.setLine c .command, .submit c (buildTransaction s.params d), .result c res,
          .respond c (framedResponse res)]
        device := s.device ++ [receivedAfter s.params (buildTransaction s.params d) res k]
        plan := rest, draws := s.draws + 7, turn := c } := by
  subst hd
  obtain ⟨hlock, hcur, ⟨htx, hwbuf⟩, hres, hlive⟩ := (framerOk_idle hq).1 hb.framer
  have hactive : reqAt (framedCaller d) (setReq (framedCaller d) .active s) = .active :=
    reqAt_setReq_self _ (by simp [hs])
  calc Host.Core.run core 7 s
    _ = Host.Core.run core 5 (granted d _ s) := run_granted hf hs hi hfit hlock hq hp
    _ = Host.Core.run core 2 (submitted d _ (granted d _ s)) :=
      run_submitted (rest := .answer res k :: .serve (framedCaller d) :: rest) hf hactive rfl rfl rfl
    _ = Host.Core.run core 0 (completed d (buildTransaction s.params d) res k rest (submitted d _ (granted d _ s))) :=
      run_completed (s := submitted d _ (granted d _ s)) hf hactive rfl rfl rfl hok rfl
    _ = _ := by
      simp [Host.Core.run, completed, submitted, granted, hlock, hcur, htx, hwbuf, hres, hlive, hq]

/-- Settles O36: SEND passes every buffer check and has no payload. -/
theorem sendWholeCall : Obligations.SendWholeCall := fun _ c _ cmd _ _ _ hb hf hq hs hi hok hp =>
  run_wholeCall (d := .send c cmd) hb hf hq rfl hs hi rfl hok hp

/-- Settles O37: the transaction of a SENDP is its case for the payload. -/
theorem sendpWholeCall : Obligations.SendpWholeCall := by
  intro s c r cmd pol bytes res k rest tx hb hf hq hs hi hfit hok htx hp
  have hbuilt : buildTransaction s.params (.sendp c cmd pol bytes) = tx := by
    rw [buildTransaction_sendp, htx]
    split
    case isTrue hnil => rw [hnil]; rfl
    case isFalse => rfl
  subst hbuilt
  exact run_wholeCall (d := .sendp c cmd pol bytes) hb hf hq rfl hs hi hfit hok hp

/-! ### What the transport makes of a transaction (R166-R169) -/

section Windows

variable {bytes : List Byte} {pol : AlignPolicy} {w : Nat} (hw : 1 ≤ w)
include hw

/-- From the front the transport keeps the beginning of the padded sequence. -/
theorem window_frontForward : window .frontForward w (packWords bytes pol w) bytes.length =
    (paddedBytes bytes pol w).take bytes.length := by
  rw [window, imageOfPackIsPaddedBytes bytes pol w hw]

/-- From the end it leaves out as many bytes of the padded sequence as the pad has. -/
theorem window_endBackward : window .endBackward w (packWords bytes pol w) bytes.length =
    (paddedBytes bytes pol w).drop (padCount bytes.length w) := by
  rw [window, imageOfPackIsPaddedBytes bytes pol w hw, paddedBytes_length bytes pol hw, padCount]

/-- A correct pairing leaves out the pad (R167). -/
theorem window_of_correctPairing {dir : TransportDir} (h : correctPairing pol dir = true) :
    window dir w (packWords bytes pol w) bytes.length = bytes := by
  cases pol <;> cases dir
  case rightAlign.frontForward => exact absurd h nofun
  case rightAlign.endBackward => simp [window_endBackward hw, paddedBytes]
  case leftAlign.frontForward => simp [window_frontForward hw, paddedBytes]
  case leftAlign.endBackward => exact absurd h nofun

/-- Without a pad there is nothing to leave out (R168). -/
theorem window_of_dvd (hmod : bytes.length % w = 0) (pol : AlignPolicy) (dir : TransportDir) :
    window dir w (packWords bytes pol w) bytes.length = bytes := by
  have hpad := (padCount_eq_zero_iff hw).mpr hmod
  cases dir with
  | frontForward => rw [window_frontForward hw, paddedBytes_of_padCount_eq_zero pol hpad, List.take_length]
  | endBackward => rw [window_endBackward hw, paddedBytes_of_padCount_eq_zero pol hpad, hpad, List.drop_zero]

end Windows

/-- The stream of a SENDP is the command byte and the window of its words; no byte, no word (R166). -/
theorem transactionStream_sendp (p : Params) (c : CallerId) (cmd : Byte) (pol : AlignPolicy) (bytes : List Byte) :
    transactionStream p (buildTransaction p (.sendp c cmd pol bytes)) =
      cmd :: window p.dir p.wordBytes (packWords bytes pol p.wordBytes) bytes.length := by
  rw [buildTransaction_sendp]
  cases bytes with
  | nil => exact congrArg (cmd :: ·) (window_of_dvd p.wordBytes.pos (bytes := []) (Nat.zero_mod _) pol p.dir).symm
  | cons b rest => simp [transactionStream]

/-- Settles O38: the window of a correct pairing is the payload. -/
theorem correctPairingDeliversPayload : Obligations.CorrectPairingDeliversPayload := by
  intro p c cmd pol bytes h
  rw [transactionStream_sendp, window_of_correctPairing p.wordBytes.pos h]

/-- Settles O39: both windows of the padded sequence, which is the payload alone when the width divides the length. -/
theorem mismatchedPairingDeliversPad : Obligations.MismatchedPairingDeliversPad := fun _ _ hw =>
  ⟨window_frontForward hw, window_endBackward hw, window_of_dvd hw⟩

/-- Settles O42: the draw says how many bytes of the stream are received after an error. -/
theorem errorAnswerDeliversSomePrefix : Obligations.ErrorAnswerDeliversSomePrefix := by
  intro s d tx hf hq hc ht
  have hanswer : ∀ res k, resultAllowed s.params res = true →
      ∃ t, takeMove (.answer res k) s = .next t ∧ t.live = some (receivedAfter s.params tx res k) := fun res k hok =>
    ⟨_, congrArg Host.Outcome.next (answerStep_of_wait k hf hq hc ht hok), rfl⟩
  refine ⟨fun e he => ⟨fun k => ?_, fun bytes hbytes => ?_⟩, fun k => hanswer .ok k rfl⟩
  · obtain ⟨t, hstep, hlive⟩ := hanswer (.err e) k he
    exact ⟨t, _, hstep, hlive, receivedAfter_prefix s.params tx (.err e) k⟩
  · obtain ⟨t, hstep, hlive⟩ := hanswer (.err e) bytes.length he
    exact ⟨_, t, hstep, hlive.trans (congrArg some (List.prefix_iff_eq_take.mp hbytes).symm)⟩

/-! ### ACCEPT (R157) -/

/-- After ACCEPT no step of a framed call halts the block or rejects the request. -/
theorem FramerMove.no_rejection {d : Framed} {s t : State} (h : FramerMove d s t) (hf : s.fatal = false)
    (hs : ∀ q, reqAt (framedCaller d) s ≠ .pending q) :
    t.fatal = false ∧ ∀ c, Event.fatal c ∉ t.hist.drop s.hist.length ∧
      Event.respond c .illegalRequest ∉ t.hist.drop s.hist.length ∧
      Event.respond c .invalidWidth ∉ t.hist.drop s.hist.length := by
  refine ⟨?_, fun c => ?_⟩
  · cases h with
    | exhaust r _ hp => exact absurd hp (hs r)
    | _ => exact hf
  · cases h with
    | accept r _ hp => exact absurd hp (hs r)
    | exhaust r _ hp => exact absurd hp (hs r)
    | complete res => cases res <;> simp [framedResponse]
    | _ => simp

/-- Settles O25: ACCEPT is the buffer check. -/
theorem acceptStepChecksBuffer : Obligations.AcceptStepChecksBuffer := by
  intro s r hf hs
  refine ⟨fun cmd => ?_, fun cmd pol bytes => ?_, fun i s' t hi hf' hs' he => ?_⟩
  · exact congrArg Host.Outcome.next (framerStep_of_accepted (d := .send s.turn cmd) hf hs rfl)
  · exact congrArg Host.Outcome.next (framerStep_of_pending (d := .sendp s.turn cmd pol bytes) hf hs)
  · rcases exec_cases i s' with ⟨d, hd, -, hx⟩ | ⟨pol, width, bytes, hp, -⟩
    · obtain rfl : framerStep d s' = t := Host.Outcome.next.inj (hx.symm.trans he)
      exact (framerStep_move d s').no_rejection hf' (hd ▸ hs')
    · exact absurd hp (hi pol width bytes)

/-! ### GRANT, LINE, BUILD, SUBMIT, COMPLETE (R158-R163) -/

/-- Settles O26: a waiting caller takes the GRANT step. -/
theorem grantStepTakesLock : Obligations.GrantStepTakesLock := by
  intro s d hf hd hs
  rw [exec_framedInstr d s hd, framerStep_of_waiting hf (hd ▸ hs), grantStep, hd]
  rfl

/-- Settles O27: in LINE the active call drives the line. -/
theorem lineStepDrivesCommand : Obligations.LineStepDrivesCommand := by
  intro s d hf hd hs hc hq
  rw [exec_framedInstr d s hd, framerStep_of_line hf (hd ▸ hs) hc hq, lineStep, hd]
  rfl

/-- Settles O28: SEND and an empty payload write no word, and the words of a payload replace the buffer. -/
theorem buildStepMakesTransaction : Obligations.BuildStepMakesTransaction := by
  intro s hf hs hq
  have hw : 1 ≤ (s.params.wordBytes : Nat) := s.params.wordBytes.pos
  refine ⟨fun cmd hc => ?_, fun cmd pol hc => ?_, fun cmd pol bytes hb hc => ⟨?_, pack_of_pos hw, fun hfit cap hcap => ?_⟩⟩
  · exact congrArg Host.Outcome.next (framerStep_of_build (d := .send s.turn cmd) hf hs hc hq)
  · exact congrArg Host.Outcome.next (framerStep_of_build (d := .sendp s.turn cmd pol []) hf hs hc hq)
  · have hstep := framerStep_of_build (d := .sendp s.turn cmd pol bytes) hf hs hc hq
    rw [buildStep, buildWords_sendp, writeBuffer_of_ne_nil (packWords_ne_nil pol hw hb), buildTransaction_sendp,
      if_neg hb] at hstep
    exact congrArg Host.Outcome.next hstep
  · rw [packWords_length]
    simpa [framedFits, bufferFits, hcap] using hfit

/-- Settles O29: in SUBMIT the active call hands `TX` to the transport. -/
theorem submitStepCallsTransport : Obligations.SubmitStepCallsTransport := by
  intro s d tx hf hd hs hc hq ht
  rw [exec_framedInstr d s hd, framerStep_of_submit hf (hd ▸ hs) hc hq, submitStep_of_tx ht, hd]
  rfl

/-- Settles O31: the response is the transport's result. -/
theorem completeStepReleasesAndResponds : Obligations.CompleteStepReleasesAndResponds := by
  intro s d res hf hd hs hc hq hr
  rw [exec_framedInstr d s hd, framerStep_of_done hf (hd ▸ hs) hc hq, completeStep_of_res hr, hd]
  cases res <;> rfl

/-- Settles O60: in DONE the call of the invariant is in `CUR` and answered, so COMPLETE releases everything. -/
theorem completeLeavesFramerStateless : Obligations.CompleteLeavesFramerStateless := by
  intro s t d hb hf hturn hc hq h
  obtain ⟨e, hin, -, res, bytes, hr, -⟩ := (framerOk_done hq).1 hb.framer
  obtain rfl := hin.eq_of_cur hc
  rw [exec_framedInstr e s hturn.symm, framerStep_of_done hf hin.active hc hq, completeStep_of_res hr] at h
  obtain rfl := Host.Outcome.next.inj h
  exact ⟨rfl, rfl, rfl, rfl, rfl, rfl, rfl, reqAt_respond_self _ _ _⟩

/-! ### The command byte, the declared length and the empty payload (R148, R150, R155) -/

/-- Settles O32: the command is a field of `DESC` that nothing checks, and the transaction's command. -/
theorem commandByteIsNotInterpreted : Obligations.CommandByteIsNotInterpreted := by
  refine ⟨fun p c cmd cmd' pol bytes => ⟨rfl, ?_, rfl, rfl⟩, fun cmd => ⟨?_, fun pol len => ?_, fun s r hf hs => ?_,
    fun s hf hs hq => ⟨fun hc => ?_, fun pol bytes hc => ?_⟩⟩⟩
  · rw [buildTransaction_sendp, buildTransaction_sendp]
  · exact (decodeOfEncodeIsIdentity (.send cmd) rfl).2
  · exact (decode_eq_iff (i := .sendp cmd pol [])).mpr ⟨rfl, nofun⟩
  · exact ⟨congrArg Host.Outcome.next (framerStep_of_accepted (d := .send s.turn cmd) hf hs rfl), fun pol bytes hfit =>
      congrArg Host.Outcome.next (framerStep_of_accepted (d := .sendp s.turn cmd pol bytes) hf hs hfit)⟩
  · exact ⟨_, _, congrArg Host.Outcome.next (framerStep_of_build (d := .send s.turn cmd) hf hs hc hq), rfl, rfl⟩
  · exact ⟨_, _, congrArg Host.Outcome.next (framerStep_of_build (d := .sendp s.turn cmd pol bytes) hf hs hc hq), rfl,
      congrArg Transaction.command (buildTransaction_sendp s.params s.turn cmd pol bytes)⟩

/-- Settles O33: the length that BUILD declares does not depend on the words. -/
theorem declaredLengthIsUnpadded : Obligations.DeclaredLengthIsUnpadded := fun s cmd pol bytes hf hs hq hc =>
  ⟨_, _, congrArg Host.Outcome.next (framerStep_of_build (d := .sendp s.turn cmd pol bytes) hf hs hc hq), rfl,
    congrArg Transaction.payloadBitLength (buildTransaction_sendp s.params s.turn cmd pol bytes)⟩

/-- Settles O34: the empty payload is absent. -/
theorem emptyPayloadBuildsSendTransaction : Obligations.EmptyPayloadBuildsSendTransaction := fun _ _ _ _ _ =>
  ⟨rfl, rfl⟩

end Sys2Proof.Machine
end

section
/-! PROOFS of the exceptions family (R181-R187): the responses INVALID_WIDTH and ILLEGAL_REQUEST, and the halt for a word
buffer beyond `BUF_BYTES`. -/

namespace Sys2Proof.Machine

/-! ### INVALID_WIDTH (R181, R187) -/

/-- The Packer answers a width of 0 before it looks at the capacity: words of width 0 need no buffer. -/
theorem packStep_of_zero_width {c : CallerId} {pol : AlignPolicy} {bytes : List Byte} {s : State} {r : Request}
    (hf : s.fatal = false) (hs : reqAt c s = .pending r) :
    packStep c pol 0 bytes s = respond c .invalidWidth s :=
  packStep_of_pending hf hs (bufferFits_zero _ _)

/-- Settles O19: the response writes the caller's slots and the history. -/
theorem packOfZeroWidthAnswersInvalidWidth : Obligations.PackOfZeroWidthAnswersInvalidWidth := fun _ _ _ _ hf hs =>
  congrArg Host.Outcome.next (packStep_of_zero_width hf hs)

/-! ### Resource exhaustion (R184) -/

/-- A buffer fits when no capacity is given, or when the one given is at least its size. -/
theorem bufferFits_iff {p : Params} {n w : Nat} :
    bufferFits p n w = true ↔ ∀ cap, p.bufBytes = some cap → wordCount n w * w ≤ cap := by
  cases hcap : p.bufBytes <;> simp [bufferFits, hcap]

/-- Settles O20: the Packer's step and ACCEPT make the same check and halt in the same way. -/
theorem exhaustedBufferSetsFatal : Obligations.ExhaustedBufferSetsFatal := by
  refine ⟨fun pol width bytes s r hf hs _ hfit => ?_, fun cmd pol bytes s r hf hs hfit => ?_,
    fun _ _ _ => bufferFits_iff⟩
  · exact congrArg Host.Outcome.next (packStep_of_exhausted (pol := pol) hf hs hfit)
  · exact congrArg Host.Outcome.next (framerStep_of_exhausted (d := .sendp s.turn cmd pol bytes) hf hs hfit)

/-! ### The Reject step (R183) -/

/-- The verdict of `decode` comes before the payload is read (R90). -/
theorem fetchRequest_of_illegal {r : Request} {why : Illegal} (h : decode r.desc r.len = .illegal why) :
    fetchRequest r = .illegal why := by
  simp only [fetchRequest, h]

/-- Serving a request that fetches as illegal is the Reject step. -/
theorem serve_eq_reject {c : CallerId} {s : State} {r : Request} {why : Illegal} (hf : s.fatal = false)
    (hs : reqAt c s = .pending r) (hi : fetchRequest r = .illegal why) : serve c s = .next (reject c s) := by
  simp only [serve, hf, hs, hi, Bool.false_eq_true, if_false]

/-- Settles O24: an illegal request runs no instruction, and the rejection is a response. -/
theorem rejectStepAnswersIllegalRequest : Obligations.RejectStepAnswersIllegalRequest := fun _ _ _ _ hf hs hd =>
  serve_eq_reject hf hs (fetchRequest_of_illegal hd)

end Sys2Proof.Machine
end

section
/-! PROOFS of the reset family (R210-R212, R228): what the device received of a call that a reset abandons, the reset
step, and the state after reset as a good end of a run. -/

namespace Sys2Proof.Machine

open Sys2Proof.Safety

/-! ### The abandoned transaction (R212) -/

section Abandoned

variable {s : State} (k : Nat)

/-- From SUBMIT's step to COMPLETE, the draw cuts the stream of the transaction in `TX`. -/
theorem abandonedReceipt_of_submitted {tx : Transaction} (ht : s.tx = some tx) (hq : s.seq = .wait ∨ s.seq = .done) :
    abandonedReceipt k s = [(transactionStream s.params tx).take k] := by
  rcases hq with hq | hq <;> simp only [abandonedReceipt, hq, ht]

/-- A call that has not taken its SUBMIT step has sent the device nothing. -/
theorem abandonedReceipt_of_not_submitted (hw : s.seq ≠ .wait) (hd : s.seq ≠ .done) : abandonedReceipt k s = [] := by
  unfold abandonedReceipt
  split
  next hq _ => exact absurd hq hw
  next hq _ => exact absurd hq hd
  next => rfl

/-- Where `TX` is NONE there is no transaction to abandon. -/
theorem abandonedReceipt_of_tx_none (ht : s.tx = none) : abandonedReceipt k s = [] := by
  cases hq : s.seq <;> simp only [abandonedReceipt, hq, ht]

end Abandoned

/-- Settles O43: a draw cuts the stream at its length, so the prefix `bytes` is the record of the draw `bytes.length`. -/
theorem abandonedCallDeliversSomePrefix : Obligations.AbandonedCallDeliversSomePrefix := by
  refine fun s => ⟨fun tx ht hq => ⟨fun k => ?_, fun bytes hbytes => ?_⟩,
    fun hw hd k => abandonedReceipt_of_not_submitted k hw hd, fun ht k => abandonedReceipt_of_tx_none k ht⟩
  · exact ⟨_, abandonedReceipt_of_submitted k ht hq, List.take_prefix k _⟩
  · refine ⟨bytes.length, ?_⟩
    rw [abandonedReceipt_of_submitted bytes.length ht hq, ← List.prefix_iff_eq_take.mp hbytes]

/-! ### The reset step (R210) -/

/-- Settles O41: the reset move is `resetStep`, which has no guard. -/
theorem resetStepResetsBlock : Obligations.ResetStepResetsBlock := fun _ _ _ => rfl

/-! ### The state after reset (R211, R228) -/

/-- A good end is an idle Framer in a block that is not halted, with every request slot EMPTY (R228). -/
theorem goodEnd_iff {s : State} :
    goodEnd s = true ↔ s.fatal = false ∧ s.seq = .idle ∧ s.lock = .free ∧ ∀ x ∈ s.req, x = .empty := by
  simp [goodEnd, and_assoc]

/-- A run may end right after a reset. -/
theorem goodEnd_resetWith (p : Params) (level : Level) : goodEnd (State.resetWith p level) = true :=
  goodEnd_iff.2 ⟨rfl, rfl, rfl, fun _ hx => List.eq_of_mem_replicate hx⟩

/-- Settles O44: the registers by definition, the slots and the good end by the lists of EMPTY slots. -/
theorem resetStateHoldsResetValues : Obligations.ResetStateHoldsResetValues :=
  ⟨fun p level c => ⟨rfl, rfl, rfl, rfl, rfl, rfl, rfl, rfl, rfl, rfl, reqAt_resetWith c p level,
    rspAt_resetWith c p level, goodEnd_resetWith p level⟩, rfl⟩

end Sys2Proof.Machine
end
